-- ==== Sys2Proof/Word.lean ====
section
/-! DEFINITION. The widths of the values PWENC moves (spec R4, R46) and nothing else. -/

namespace Sys2Proof

/-- F-REC, F-MSK, F-ROT: a 40-bit record, masked record or rotated record (R46). -/
abbrev Rec40 := BitVec 40

/-- F-EMB, F-MIX: a 48-bit embedded or mixed value (R46). -/
abbrev Emb48 := BitVec 48

/-- One lane of the byte mixer, and one character code on the output ports (R54, R96). -/
abbrev Byte := BitVec 8

/-- `checksum1`, 3 bits (R81). -/
abbrev Check1 := BitVec 3

/-- `checksum2`, 5 bits, also the rotation amount (R82, R17). -/
abbrev Check2 := BitVec 5

/-- One two-bit code of the mixed value (R50). -/
abbrev Dibit := BitVec 2

/-- F-STAGE: the value of the stage counter (R56). -/
abbrev StageCode := BitVec 4

/-- F-ERR: the two fault flags (R58). -/
abbrev ErrFlags := BitVec 2

end Sys2Proof
end

