-- ==== Sys2Proof/Config.lean ====
section
/-! DEFINITION. The types of the configuration (glyph, mode, variant, VariantConfig, the fields of a record), the open
parameters of the spec, and the free values of the model. -/

namespace Sys2Proof

/-- A display symbol (R9). The four alphabet members of a variant are `R`, `E`, `B` or `T`, and `DASH`; a trailer glyph
need not be one of them (R5, C3): `other` carries the character code such a glyph has on the ports.
DESIGN CHOICE (log entry 14): the form of the glyphs the source does not name. -/
inductive Glyph
  | R
  | E
  | B
  | T
  | DASH
  | other (code : Byte)
deriving DecidableEq, Repr, Inhabited

/-- The two glyphs code `10` may have (R103). -/
inductive TenGlyph
  | B
  | T
deriving DecidableEq, Repr, Inhabited

/-- The authenticity mode (R9, R22): authentic, or reference/demo. -/
inductive Mode
  | AUTH
  | DEMO
deriving DecidableEq, Repr, Inhabited

/-- The two valid VariantConfig instances, named by password length (R51). -/
inductive Variant
  | VAR24
  | VAR25
deriving DecidableEq, Repr, Inhabited

/-- F-CFG, the VariantConfig record (R51). `rows` and `cols` are naturals (D42, log entry 23). -/
structure VariantConfig where
  hclr : Bool
  g10 : Glyph
  trailer : Bool
  rows : Nat
  cols : Nat
deriving DecidableEq, Repr, Inhabited

/-- The open parameters of R5: values the source says must be reproduced exactly and never states. -/
structure Params where
  /-- `MASK40` (R78). -/
  mask40 : Rec40
  /-- `G10_24`: the glyph of code `10` in the 24-symbol variant (R51, R103). -/
  g10Of24 : TenGlyph
  /-- `H_UNUSED_VARIANT`: the variant that ignores item bit `h` (R51). -/
  hUnusedVariant : Variant
  /-- `TRAILER_AUTH` (R104). -/
  trailerAuth : Glyph
  /-- `TRAILER_DEMO` (R104). -/
  trailerDemo : Glyph
deriving DecidableEq, Repr, Inhabited

/-- The values this instance of the block was built with (R5, R135). DESIGN CHOICE (log entry 1): no body that a proof
could see, so whatever is proved of the machine holds for every mask, glyph assignment and trailer. -/
opaque Config.params : Params

/-! Free values: what stands in the bits of a register that LOAD has made hold no value (R28, R66). Each is applied to the
number of the LOAD (`State.lost`); DESIGN CHOICE (log entry 3). -/

/-- The bits of `M` while it holds no value. -/
opaque Config.freeM : Nat → Rec40
/-- The bits of `C1` while it holds no value. -/
opaque Config.freeC1 : Nat → Check1
/-- The bits of `C2` while it holds no value. -/
opaque Config.freeC2 : Nat → Check2
/-- The bits of `ROT` while it holds no value. -/
opaque Config.freeRot : Nat → Rec40
/-- The bits of `EMB` while it holds no value. -/
opaque Config.freeEmb : Nat → Emb48
/-- The bits of `MIXD` while it holds no value. -/
opaque Config.freeMixd : Nat → Emb48
/-- What stands in `SYM[i]`, the second argument, while it holds no value. -/
opaque Config.freeSym : Nat → Nat → Glyph
/-- The bits of `LEN` while it holds no value. -/
opaque Config.freeLen : Nat → BitVec 5

/-- The ten named sub-fields of a ProgressRecord as naturals, the argument of PACK (R9, R74). `boss` is flag `1` at index
0 to flag `8` at index 7, and `item` is flag `a` at index 0 to flag `h` at index 7. -/
structure Fields where
  boss : Vector Nat 8
  m : Nat
  item : Vector Nat 8
  EEE : Nat
  ee : Nat
  WWW : Nat
  S : Nat
  B : Nat
  P : Nat
  LLL : Nat
deriving DecidableEq, Repr

end Sys2Proof
end

