-- ==== Sys2Proof/Syntax.lean ====
section
/-! DEFINITION. The stage operations of PWENC: one constructor per row of the opcode map (R56). -/

namespace Sys2Proof

/-- The eleven stage operations. None has an operand: each reads and writes the fixed registers of its own rule (R13,
R60). -/
inductive Instr
  /-- Code 0: wait for `start` (R65). -/
  | idle
  /-- Code 1: accept the record, the variant and the mode (R66). -/
  | load
  /-- Code 2: Masker (R75). -/
  | mask
  /-- Code 3: ChecksumCalculator (R80). -/
  | csum
  /-- Code 4: Rotator (R86). -/
  | rotr
  /-- Code 5: ChecksumEmbedder (R91). -/
  | embed
  /-- Code 6: ByteMixer (R95). -/
  | mix
  /-- Code 7: SymbolEncoder (R100). -/
  | symenc
  /-- Code 8: GridLayout (R108). -/
  | grid
  /-- Code 9: the call has ended with a result; wait for the next `start` (R68). -/
  | done
  /-- Code 15: the fault state (R69). -/
  | fault
deriving DecidableEq, Repr, Inhabited

end Sys2Proof
end

