-- ==== Sys2Proof/WellFormed.lean ====
section
/-! DEFINITION. Which instructions and configurations the spec admits. (Which field records it admits stands beside PACK, in Machine/FrontEnd.lean.) -/

namespace Sys2Proof

/-- Every stage operation is well formed: the stage code "has no other fields: no register specifier, no immediate, no
mode bits" (R56, R60), so there is nothing an operation could get wrong. -/
def Instr.wellFormed : Instr → Bool
  | .idle | .load | .mask | .csum | .rotr | .embed | .mix | .symenc | .grid | .done | .fault => true

/-- The number of symbols a configuration produces: 24, or 25 with a trailer (R105). -/
def VariantConfig.passwordLength (c : VariantConfig) : Nat :=
  if c.trailer then 25 else 24

/-- `rows * cols` equals the number of symbols, the product exact on naturals (R51, R110). -/
def VariantConfig.shapeMatches (c : VariantConfig) : Bool :=
  c.rows * c.cols == c.passwordLength

/-- "A VariantConfig is well formed when `g10` is `B` or `T` and `rows * cols = (24 if not trailer else 25)`" (R51). -/
def VariantConfig.wellFormed (c : VariantConfig) : Bool :=
  (c.g10 == .B || c.g10 == .T) && c.shapeMatches

end Sys2Proof
end

