-- ==== Sys2Proof/Decode.lean ====
section
/-! DEFINITION. The opcode map (R56): from a stage code to the operation, and back. -/

namespace Sys2Proof

/-- Why a stage code is no operation. -/
inductive DecodeError
  /-- Codes 10 to 14 are reserved and must not be given a meaning (R57). -/
  | reserved (code : StageCode)
deriving DecidableEq, Repr

/-- The operation a stage code selects: a function of the four bits alone (R56, R60). Total; a reserved code is rejected
by name (R57). -/
def decode (c : StageCode) : Except DecodeError Instr :=
  match c.toNat with
  | 0 => .ok .idle
  | 1 => .ok .load
  | 2 => .ok .mask
  | 3 => .ok .csum
  | 4 => .ok .rotr
  | 5 => .ok .embed
  | 6 => .ok .mix
  | 7 => .ok .symenc
  | 8 => .ok .grid
  | 9 => .ok .done
  | 15 => .ok .fault
  | _ => .error (.reserved c)

/-- The instruction the table's bits stand for. The table gives a row four bits, so a whole byte whose upper four bits are
not 0 is no instruction; bits above `nbits` are 0. DESIGN CHOICE (log entry 17). -/
def decodeTableWord (nbits w : Nat) : Option Instr :=
  let v := w % 2 ^ nbits
  if v < 16 then
    match decode (BitVec.ofNat 4 v) with
    | .ok i => some i
    | .error _ => none
  else none

/-- The stage code of an operation, from the `binary` column of R56. -/
def encode : Instr → StageCode
  | .idle => 0b0000#4
  | .load => 0b0001#4
  | .mask => 0b0010#4
  | .csum => 0b0011#4
  | .rotr => 0b0100#4
  | .embed => 0b0101#4
  | .mix => 0b0110#4
  | .symenc => 0b0111#4
  | .grid => 0b1000#4
  | .done => 0b1001#4
  | .fault => 0b1111#4

end Sys2Proof
end

