-- ==== Sys2Proof/Machine/State.lean ====
section
/-! DEFINITION. The state of one PWENC instance (R13), its reset value (R30), and the reasons a step can stop. -/

namespace Sys2Proof.Machine

/-- A data register: its bits, and whether it holds a value. "A data register that no operation has written since the last
reset or the last LOAD holds no value" (R28): then `held` is false and a host reading it gets nothing. -/
structure Reg (α : Type) where
  val : α
  held : Bool
deriving DecidableEq, Repr

/-- What input `variant_i` presents: the one-bit index of the hardware (R52), or the VariantConfig record itself, which
R21 and R66 allow a model to take and which is the only way to reach `ShapeMismatch` (D38, log entry 8). -/
inductive VariantInput
  | index (v : BitVec 1)
  | record (c : VariantConfig)
deriving DecidableEq, Repr

/-- The levels on the input ports (D5). The host drives them between steps; no step changes them (log entry 6). -/
structure Pins where
  rst : Bool
  start : Bool
  recI : Rec40
  variantI : VariantInput
  modeI : BitVec 1
deriving DecidableEq, Repr

/-- The architectural state, register by register as R13 lists it, with the input levels the step samples. -/
structure State where
  /-- `R`, the ProgressRecord (R15). -/
  r : Reg Rec40
  /-- `CFG`, the VariantConfig of this call (R21). -/
  cfg : Reg VariantConfig
  /-- `MODE`, the authenticity mode (R22). -/
  mode : Reg Mode
  /-- `M`, the masked record (R16). -/
  m : Reg Rec40
  /-- `C1`, checksum1 (R17). -/
  c1 : Reg Check1
  /-- `C2`, checksum2 and rotation amount (R17). -/
  c2 : Reg Check2
  /-- `ROT`, the rotated record (R18). -/
  rot : Reg Rec40
  /-- `EMB`, the embedded value (R19). -/
  emb : Reg Emb48
  /-- `MIXD`, the mixed value (R20). -/
  mixd : Reg Emb48
  /-- `SYM[0..24]` (R23). -/
  sym : Vector (Reg Glyph) 25
  /-- `LEN` (R23). -/
  len : Reg (BitVec 5)
  /-- `STAGE`, the stage counter (R25). -/
  stage : StageCode
  /-- `ERR`, the fault flags (R26). -/
  err : ErrFlags
  /-- The input levels (R65, R66, R132). -/
  pins : Pins
  /-- The model's own: how many LOADs have discarded register contents, the argument of the free values (log entry 3). -/
  lost : Nat
deriving DecidableEq, Repr

/-- The faults of R116, exactly two (R127). They are recorded by fault entry, which is a next state (R122, log entry 5);
no step of the machine ends in `Outcome.fault`. -/
inductive Fault
  /-- `InvalidRecord` (R117): answered by `pack`, outside the block. Safe: the block is not started. -/
  | invalidRecord
  /-- `ShapeMismatch` (R118): raised by GRID, answered by `toGrid` and `encodeRecord`. Safe: the call has no result. -/
  | shapeMismatch
deriving DecidableEq, Repr

/-- Why the machine has no step. -/
inductive Refusal
  /-- An arm of the dispatch with no meaning yet; no arm answers it in this model. Safe: nothing happens. -/
  | notModelled (mnemonic : String)
  /-- Raised by the step when STAGE holds a reserved code 10 to 14: "it has no step (stuck)" (R57, log entry 11). Safe:
  no run from reset reaches it. -/
  | reservedStage (code : StageCode)
deriving DecidableEq, Repr

/-- A register that holds no value after reset. The spec gives its bits no value (R30); the model names them, DESIGN
CHOICE (log entry 2), and no host read can see them. -/
def Reg.unset {α : Type} (bits : α) : Reg α := ⟨bits, false⟩

/-- The machine right after reset (R30): IDLE, no fault recorded, every data register holding no value. The input levels
are those of a host that has not acted, DESIGN CHOICE (log entry 6). -/
def State.reset : State where
  r := .unset 0#40
  cfg := .unset ⟨false, .B, false, 0, 0⟩
  mode := .unset .AUTH
  m := .unset 0#40
  c1 := .unset 0#3
  c2 := .unset 0#5
  rot := .unset 0#40
  emb := .unset 0#48
  mixd := .unset 0#48
  sym := Vector.replicate 25 (.unset .R)
  len := .unset 0#5
  stage := 0#4
  err := 0#2
  pins := ⟨false, false, 0#40, .index 0#1, 0#1⟩
  lost := 0

end Sys2Proof.Machine
end

