-- ==== Sys2Proof/Machine/Operands.lean ====
section
/-! DEFINITION. The forms in which operands are read: groups of a wide value, population count, the constants, the
configuration table, the mode and variant inputs, the character codes. -/

namespace Sys2Proof.Machine

/-! ### Groups (R7, R35) -/

/-- `group_g(v, i) = v[W-1-g*i : W-g*(i+1)]`: group 0 is the most-significant one (R7). Used only with
`g * (i + 1) ≤ W`. -/
def group {w : Nat} (g : Nat) (v : BitVec w) (i : Nat) : BitVec g :=
  v.extractLsb' (w - g * (i + 1)) g

/-- `byte(v, i)` of a 48-bit value, `i` in 0..5 (R7). -/
def byteOf (v : Emb48) (i : Nat) : Byte := group 8 v i

/-- `nib(v, i)` of a 40-bit value, `i` in 0..9 (R7). -/
def nibOf (v : Rec40) (i : Nat) : BitVec 4 := group 4 v i

/-- `dibit(v, i)` of a 48-bit value, `i` in 0..23 (R7). -/
def dibitOf (v : Emb48) (i : Nat) : Dibit := group 2 v i

/-- `popcount(v)`: the number of bits equal to 1 (R7). -/
def popcount {w : Nat} (v : BitVec w) : Nat :=
  ((List.range w).map fun i => (v.getLsbD i).toNat).sum

/-! ### Constants (R4, R59) -/

/-- `MIXK`, the mixing constant, as the source states it (R4, D9; unaudited: log entry 9). -/
def mixK : Emb48 := 0x123456789ABC#48

/-- `HBIT`, the position of item flag `h` in the record (R4, R47, D10; log entry 10). -/
def hBit : Nat := 23

/-! ### Configuration and inputs (R51 to R53) -/

/-- The glyph of code `10` as a member of `Glyph` (R51). -/
def tenGlyph : TenGlyph → Glyph
  | .B => .B
  | .T => .T

/-- "the member of `{B, T}` that is not `G10_24`" (R51). -/
def otherTenGlyph : TenGlyph → TenGlyph
  | .B => .T
  | .T => .B

/-- `VCFG`: the two valid instances, built from the open parameters (R51). -/
def vcfg (p : Params) : Variant → VariantConfig
  | .VAR24 =>
    { hclr := p.hUnusedVariant == .VAR24, g10 := tenGlyph p.g10Of24, trailer := false, rows := 4, cols := 6 }
  | .VAR25 =>
    { hclr := p.hUnusedVariant == .VAR25, g10 := tenGlyph (otherTenGlyph p.g10Of24), trailer := true, rows := 5, cols := 5 }

/-- Input `variant_i`: 0 selects `VAR24`, 1 selects `VAR25` (R52). -/
def variantOfBit (b : BitVec 1) : Variant := if b = 0#1 then .VAR24 else .VAR25

/-- Input `mode_i`: 0 is `AUTH`, 1 is `DEMO` (R53). -/
def modeOfBit (b : BitVec 1) : Mode := if b = 0#1 then .AUTH else .DEMO

/-- The code of a mode in the one-bit register `MODE` (R22). -/
def modeBit : Mode → BitVec 1
  | .AUTH => 0#1
  | .DEMO => 1#1

/-- What LOAD latches into `CFG`: `VCFG[variant_i]`, or the record itself where the model is given one (R66). -/
def configInput (p : Params) : VariantInput → VariantConfig
  | .index v => vcfg p (variantOfBit v)
  | .record c => c

/-! ### Character codes (R54) -/

/-- The 8-bit code of a glyph on the output ports: ASCII. PRESUMED (R54 gives the codes as general knowledge, log entry
15). -/
def glyphCode : Glyph → Byte
  | .R => 0x52#8
  | .E => 0x45#8
  | .B => 0x42#8
  | .T => 0x54#8
  | .DASH => 0x2D#8
  | .other c => c

/-- The newline byte of the text rendering. PRESUMED (R54, D18, log entry 15). -/
def newlineCode : Byte := 0x0A#8

end Sys2Proof.Machine
end

