-- ==== Sys2Proof/Machine/Flags.lean ====
section
/-! DEFINITION. The fault flags and codes (R26, R58) and the status outputs (R27). The block has no other flag: no carry,
zero, sign or overflow (R27). -/

namespace Sys2Proof.Machine

/-- The fault codes: `InvalidRecord` 1, `ShapeMismatch` 2 (R58). -/
def faultCode : Fault → Nat
  | .invalidRecord => 1
  | .shapeMismatch => 2

/-- The `ERR` bit of a fault: `ERR[code-1]` (R58, R122). -/
def errBit (f : Fault) : ErrFlags := 1#2 <<< (faultCode f - 1)

/-- Output `busy`: `STAGE` in 1..8 (R27). -/
def busy (s : State) : Bool := decide (1 ≤ s.stage.toNat) && decide (s.stage.toNat ≤ 8)

/-- Output `done`: `STAGE = 9` (R27). -/
def doneOut (s : State) : Bool := s.stage == 9#4

/-- Output `fault`: `STAGE = 15` (R27). -/
def faultOut (s : State) : Bool := s.stage == 15#4

/-- Output `err`: the flags, readable at any time (R26, R27). -/
def errOut (s : State) : ErrFlags := s.err

end Sys2Proof.Machine
end

