-- ==== Sys2Proof/Machine/Ops.lean ====
section
/-! DEFINITION. The named operations over registers that the meanings share: writing a register, losing its value, moving
the stage counter, fault entry, reset, fetch. There is no memory to operate on (R31). -/

namespace Sys2Proof.Machine

/-- `X <- v`: the register holds `v` (R8). -/
def Reg.write {α : Type} (v : α) : Reg α := ⟨v, true⟩

/-- `X <- no value` (R66): nothing is known of the bits left behind, so they are the free value given. -/
def Reg.lose {α : Type} (free : α) : Reg α := ⟨free, false⟩

/-- The register keeps no value; its bits stay where no operation reads them (used for `SYM[24]`, log entry 13). -/
def Reg.drop {α : Type} (r : Reg α) : Reg α := { r with held := false }

/-- A register read by a stage operation. In a run every register so read holds a value (R28); in a state no run reaches
the bits stand in for it (log entry 4). -/
def Reg.get {α : Type} (r : Reg α) : α := r.val

/-- A register read by the host: no value where the register holds none, "never zero" (R28). -/
def Reg.host? {α : Type} (r : Reg α) : Option α := if r.held then some r.val else none

/-- `STAGE <- n`, the only control transfer (R8, R70). -/
def setStage (n : StageCode) (s : State) : State := { s with stage := n }

/-- Fault entry, the meaning of `raise f` (R122): the flag of the fault is set, `STAGE` becomes 15, and nothing else
changes. There is no return from it (R124): only `applyReset` leaves FAULT. -/
def raise (f : Fault) (s : State) : State := { s with err := s.err ||| errBit f, stage := 15#4 }

/-- Reset (R132): the state of R30 from any state. The input levels are the host's and stay; the count of LOADs is the
model's and stays, so that later free values are fresh (log entry 3). -/
def applyReset (s : State) : State := { State.reset with pins := s.pins, lost := s.lost }

/-- What a step reads to know its operation: the stage code (R64). There is no instruction memory (R44). -/
def fetch (s : State) : StageCode := s.stage

/-- The host sets the input levels (R42: the inputs are all a host writes). -/
def drive (p : Pins) (s : State) : State := { s with pins := p }

end Sys2Proof.Machine
end

