-- ==== Sys2Proof/Machine/ByteMixer.lean ====
section
/-! DEFINITION. MIX, the ByteMixer (spec 45_bytemixer.md). -/

namespace Sys2Proof.Machine

/-- Reassembly of six lanes, most-significant first (R98). -/
def joinBytes (y : Nat → Byte) : Emb48 :=
  (y 0 ++ y 1 ++ y 2 ++ y 3 ++ y 4 ++ y 5).cast (rfl : 8 + 8 + 8 + 8 + 8 + 8 = 48)

/-- `MIX_f` (R95): lane `i` is `(byte(e, i) + byte(MIXK, i)) mod 256`, its carry-out dropped (R97). -/
def mixF (e : Emb48) : Emb48 := joinBytes fun i => byteOf e i + byteOf mixK i

/-- The inverse of `MIX_f`: subtraction modulo 256 in each lane (R99). A helper, no operation of the block. -/
def unmixF (y : Emb48) : Emb48 := joinBytes fun i => byteOf y i - byteOf mixK i

/-- MIX (R95): `MIXD <- MIX_f(EMB); STAGE <- 7`. -/
def execMix (s : State) : Host.Outcome State Fault Refusal :=
  .next { s with mixd := .write (mixF s.emb.get), stage := 7#4 }

end Sys2Proof.Machine
end

