-- ==== Sys2Proof/Machine/Checksum.lean ====
section
/-! DEFINITION. CSUM, the ChecksumCalculator (spec 42_checksum.md). -/

namespace Sys2Proof.Machine

/-- The population count modulo 8 (R81): the exact count reduced to 3 bits. -/
def checksum1 (m : Rec40) : Check1 := BitVec.ofNat 3 (popcount m)

/-- The sum of the twelve 4-bit groups of the zero-extended value, modulo 32 (R82): the exact sum reduced once. -/
def checksum2 (m : Rec40) : Check2 :=
  BitVec.ofNat 5 ((List.range 12).map fun i => (group 4 (m.setWidth 48) i).toNat).sum

/-- CSUM (R80): `(C1, C2) <- CSUM_f(M); STAGE <- 4`. -/
def execCsum (s : State) : Host.Outcome State Fault Refusal :=
  .next { s with c1 := .write (checksum1 s.m.get), c2 := .write (checksum2 s.m.get), stage := 4#4 }

end Sys2Proof.Machine
end

