-- ==== Sys2Proof/Machine/Embedder.lean ====
section
/-! DEFINITION. EMBED, the ChecksumEmbedder (spec 44_embedder.md). -/

namespace Sys2Proof.Machine

/-- `EMBED_f(rot, c1, c2) = rot[39:0] ++ c1[2:0] ++ c2[4:0]`, 48 bits (R91, R92), checksum1 before checksum2 (R93). -/
def embedF (rot : Rec40) (c1 : Check1) (c2 : Check2) : Emb48 :=
  (rot ++ c1 ++ c2).cast (rfl : 40 + 3 + 5 = 48)

/-- EMBED (R91): `EMB <- EMBED_f(ROT, C1, C2); STAGE <- 6`. -/
def execEmbed (s : State) : Host.Outcome State Fault Refusal :=
  .next { s with emb := .write (embedF s.rot.get s.c1.get s.c2.get), stage := 6#4 }

end Sys2Proof.Machine
end

