-- ==== Sys2Proof/Machine/GridLayout.lean ====
section
/-! DEFINITION. GRID, the GridLayout (spec 47_grid_layout.md): the shape check, the grid view and the text view. -/

namespace Sys2Proof.Machine

/-- The flat index of grid position `(r, c)`: `r + rows * c`, the multiplier being the row count (R109). -/
def gridIndex (rows r c : Nat) : Nat := r + rows * c

/-- Row `r` of the grid view of a symbol sequence (R109). With a matching shape no index falls outside the sequence
(R32). -/
def gridRow (symbols : List Glyph) (rows cols r : Nat) : List Glyph :=
  (List.range cols).filterMap fun c => symbols[gridIndex rows r c]?

/-- The grid view, row 0 first (R109). -/
def gridRows (symbols : List Glyph) (rows cols : Nat) : List (List Glyph) :=
  (List.range rows).map (gridRow symbols rows cols)

/-- `to_grid` (R108, R110): the grid, or `ShapeMismatch` when `rows * cols` is not the number of symbols. -/
def toGrid (symbols : List Glyph) (rows cols : Nat) : Except Fault (List (List Glyph)) :=
  if rows * cols = symbols.length then .ok (gridRows symbols rows cols) else .error .shapeMismatch

/-- RENDER (R112, R55): the lines' character codes with one newline byte between lines and none after the last. -/
def render (grid : List (List Glyph)) : List Byte :=
  List.intercalate [newlineCode] (grid.map fun line => line.map glyphCode)

/-- The shape check of R110 on the registers: `CFG.rows * CFG.cols = LEN`, the product exact. -/
def shapeOk (s : State) : Bool := s.cfg.get.rows * s.cfg.get.cols == s.len.get.toNat

/-- GRID (R108): `if CFG.rows * CFG.cols != LEN then raise ShapeMismatch; STAGE <- 9`. It stores no symbols (R114). -/
def execGrid (s : State) : Host.Outcome State Fault Refusal :=
  .next (if shapeOk s then setStage 9#4 s else raise .shapeMismatch s)

end Sys2Proof.Machine
end

