-- ==== Sys2Proof/Machine/Masker.lean ====
section
/-! DEFINITION. MASK, the Masker (spec 41_masker.md). -/

namespace Sys2Proof.Machine

/-- The record after the bit-`h` correction: bit 23 is forced to 0 exactly when the variant requires it and the mode is
authentic (R75, R76, R77). -/
def corrected (rec : Rec40) (cfg : VariantConfig) (mode : Mode) : Rec40 :=
  if cfg.hclr && mode == .AUTH then rec &&& ~~~(1#40 <<< hBit) else rec

/-- `MASK_f` (R75), the mask an argument (R5). -/
def maskF (mask40 : Rec40) (rec : Rec40) (cfg : VariantConfig) (mode : Mode) : Rec40 :=
  corrected rec cfg mode ^^^ mask40

/-- MASK for given open parameters: `M <- MASK_f(R, CFG, MODE); STAGE <- 3` (R75). -/
def maskEffect (p : Params) (s : State) : State :=
  { s with m := .write (maskF p.mask40 s.r.get s.cfg.get s.mode.get), stage := 3#4 }

/-- MASK (R75). -/
def execMask (s : State) : Host.Outcome State Fault Refusal :=
  .next (maskEffect Config.params s)

end Sys2Proof.Machine
end

