-- ==== Sys2Proof/Machine/Rotator.lean ====
section
/-! DEFINITION. ROTR, the Rotator (spec 43_rotator.md), and the helper `rotate_left` (R89). -/

namespace Sys2Proof.Machine

/-- `rotate_right(m, a)` on 40 bits: `((m >> a) | ((m & (2^a - 1)) << (40 - a)))` (R87). With `a = 0` the masked part is 0,
so the value is unchanged (R88). -/
def rotateRight (m : Rec40) (a : Check2) : Rec40 :=
  (m >>> a.toNat) ||| ((m &&& BitVec.ofNat 40 (2 ^ a.toNat - 1)) <<< (40 - a.toNat))

/-- `rotate_left(x, k) = x[39-k:0] ++ x[39:40-k]` on 40 bits (R89). A helper, no operation of the block (R62). -/
def rotateLeft (x : Rec40) (k : Check2) : Rec40 :=
  (x <<< k.toNat) ||| (x >>> (40 - k.toNat))

/-- ROTR (R86): `ROT <- rotate_right(M, C2); STAGE <- 5`. -/
def execRotr (s : State) : Host.Outcome State Fault Refusal :=
  .next { s with rot := .write (rotateRight s.m.get s.c2.get), stage := 5#4 }

end Sys2Proof.Machine
end

