-- ==== Sys2Proof/Machine/Sequencer.lean ====
section
/-! DEFINITION. The control operations IDLE, LOAD, DONE and FAULT (spec 40_sequencer.md). -/

namespace Sys2Proof.Machine

/-- IDLE (R65): `if start = 1 then STAGE <- 1 else STAGE <- 0`. -/
def execIdle (s : State) : Host.Outcome State Fault Refusal :=
  .next (setStage (if s.pins.start then 1#4 else 0#4) s)

/-- LOAD (R66) for given open parameters: the three inputs are latched and every other data register holds no value. -/
def loadEffect (p : Params) (s : State) : State :=
  { s with
    r := .write s.pins.recI
    cfg := .write (configInput p s.pins.variantI)
    mode := .write (modeOfBit s.pins.modeI)
    m := .lose (Config.freeM s.lost)
    c1 := .lose (Config.freeC1 s.lost)
    c2 := .lose (Config.freeC2 s.lost)
    rot := .lose (Config.freeRot s.lost)
    emb := .lose (Config.freeEmb s.lost)
    mixd := .lose (Config.freeMixd s.lost)
    sym := Vector.ofFn fun i => .lose (Config.freeSym s.lost i.val)
    len := .lose (Config.freeLen s.lost)
    lost := s.lost + 1
    stage := 2#4 }

/-- LOAD (R66). -/
def execLoad (s : State) : Host.Outcome State Fault Refusal :=
  .next (loadEffect Config.params s)

/-- DONE (R68): `if start = 1 then STAGE <- 1 else STAGE <- 9`. -/
def execDone (s : State) : Host.Outcome State Fault Refusal :=
  .next (setStage (if s.pins.start then 1#4 else 9#4) s)

/-- FAULT (R69): `STAGE <- 15`, whatever `start` is. -/
def execFault (s : State) : Host.Outcome State Fault Refusal :=
  .next (setStage 15#4 s)

end Sys2Proof.Machine
end

