-- ==== Sys2Proof/Machine/SymbolEncoder.lean ====
section
/-! DEFINITION. SYMENC, the SymbolEncoder (spec 46_symbol_encoder.md). -/

namespace Sys2Proof.Machine

/-- The table from two-bit code to glyph: `00 -> R`, `01 -> E`, `10 -> CFG.g10`, `11 -> DASH` (R33, R102). -/
def lut (g10 : Glyph) (k : Dibit) : Glyph :=
  match k.toNat with
  | 0 => .R
  | 1 => .E
  | 2 => g10
  | _ => .DASH

/-- The 25th symbol of a variant that has one (R104). -/
def trailerGlyph (p : Params) : Mode → Glyph
  | .AUTH => p.trailerAuth
  | .DEMO => p.trailerDemo

/-- The symbol sequence of `SYMENC_f` (R100): the 24 mapped codes, and the trailer where the variant has one. -/
def symbolsF (p : Params) (x : Emb48) (cfg : VariantConfig) (mode : Mode) : List Glyph :=
  ((List.range 24).map fun j => lut cfg.g10 (dibitOf x j)) ++ (if cfg.trailer then [trailerGlyph p mode] else [])

/-- The symbol buffer after `SYM[0 .. LEN-1]` is written: an entry past the sequence holds no value (R23, R100, log
entry 13). -/
def writeSymbols (g : List Glyph) (sym : Vector (Reg Glyph) 25) : Vector (Reg Glyph) 25 :=
  Vector.ofFn fun i =>
    match g[i.val]? with
    | some x => .write x
    | none => sym[i].drop

/-- SYMENC for given open parameters (R100): `(SYM, LEN) <- SYMENC_f(MIXD, CFG, MODE); STAGE <- 8`. -/
def symencEffect (p : Params) (s : State) : State :=
  { s with
    sym := writeSymbols (symbolsF p s.mixd.get s.cfg.get s.mode.get) s.sym
    len := .write (BitVec.ofNat 5 (symbolsF p s.mixd.get s.cfg.get s.mode.get).length)
    stage := 8#4 }

/-- SYMENC (R100). -/
def execSymenc (s : State) : Host.Outcome State Fault Refusal :=
  .next (symencEffect Config.params s)

end Sys2Proof.Machine
end

