-- ==== Sys2Proof/Machine/Dispatch.lean ====
section
/-! DEFINITION. One arm per stage operation, each one direct call of its meaning (R56). -/

namespace Sys2Proof.Machine

def exec (i : Instr) (s : State) : Host.Outcome State Fault Refusal :=
  match i with
  | .idle => Sys2Proof.Machine.execIdle s
  | .load => Sys2Proof.Machine.execLoad s
  | .mask => Sys2Proof.Machine.execMask s
  | .csum => Sys2Proof.Machine.execCsum s
  | .rotr => Sys2Proof.Machine.execRotr s
  | .embed => Sys2Proof.Machine.execEmbed s
  | .mix => Sys2Proof.Machine.execMix s
  | .symenc => Sys2Proof.Machine.execSymenc s
  | .grid => Sys2Proof.Machine.execGrid s
  | .done => Sys2Proof.Machine.execDone s
  | .fault => Sys2Proof.Machine.execFault s

end Sys2Proof.Machine
end

