-- ==== Sys2Proof/Machine/Step.lean ====
section
/-! DEFINITION. One step of the block (R64), and where an instruction of the opcode table is put to be run next. -/

namespace Sys2Proof.Machine

/-- One step. With `rst` applied the step is reset, in any state (R132, log entry 7); otherwise the operation that the
stage code selects is performed whole (R64). A reserved code has no step (R57). -/
def step (s : State) : Host.Outcome State Fault Refusal :=
  if s.pins.rst then .next (applyReset s)
  else
    match decode (fetch s) with
    | .ok i => exec i s
    | .error (.reserved c) => .refused (.reservedStage c)

/-- The state whose next step performs the operation with stage code `w`: the code stands in `STAGE`, and `rst` is low so
that the step is not a reset (log entry 16). -/
def State.withFetchWord (s : State) (nbits w : Nat) : State :=
  { s with stage := BitVec.ofNat 4 (w % 2 ^ nbits), pins := { s.pins with rst := false } }

end Sys2Proof.Machine
end

