-- ==== Sys2Proof/Machine/FrontEnd.lean ====
section
/-! DEFINITION. PACK, the external contract that makes a record from fields (R74, R48), and the block integrated with such
a front end (R117). Neither is a stage operation. -/

namespace Sys2Proof.Machine

/-- Every field of a record fits its declared width (R47, R74). -/
def fieldsInRange (f : Fields) : Bool :=
  f.boss.toList.all (· ≤ 1) && decide (f.m ≤ 1) && f.item.toList.all (· ≤ 1) && decide (f.EEE ≤ 7) && decide (f.ee ≤ 3)
    && decide (f.WWW ≤ 7) && decide (f.S ≤ 1) && decide (f.B ≤ 1) && decide (f.P ≤ 1023) && decide (f.LLL ≤ 7)

/-- The stored form of the `P` field: `P[7:0] ++ P[9:8]` (R48). -/
def pField (p : Nat) : BitVec 10 :=
  ((BitVec.ofNat 10 p).extractLsb' 0 8 ++ (BitVec.ofNat 10 p).extractLsb' 8 2).cast (rfl : 8 + 2 = 10)

/-- Eight one-bit flags, the first-named in the highest bit (R47). -/
def flagBits (v : Vector Nat 8) : Byte :=
  (BitVec.ofNat 1 v[0] ++ BitVec.ofNat 1 v[1] ++ BitVec.ofNat 1 v[2] ++ BitVec.ofNat 1 v[3] ++ BitVec.ofNat 1 v[4]
    ++ BitVec.ofNat 1 v[5] ++ BitVec.ofNat 1 v[6] ++ BitVec.ofNat 1 v[7]).cast (rfl : 1 + 1 + 1 + 1 + 1 + 1 + 1 + 1 = 8)

/-- The record laid out field by field from bit 39 down (R47, R74). -/
def assemble (f : Fields) : Rec40 :=
  (flagBits f.boss ++ BitVec.ofNat 1 f.m ++ flagBits f.item ++ BitVec.ofNat 3 f.EEE ++ BitVec.ofNat 2 f.ee
    ++ BitVec.ofNat 3 f.WWW ++ BitVec.ofNat 1 f.S ++ BitVec.ofNat 1 f.B ++ pField f.P ++ BitVec.ofNat 3 f.LLL).cast
    (rfl : 8 + 1 + 8 + 3 + 2 + 3 + 1 + 1 + 10 + 3 = 40)

/-- PACK (R74): the record, or `InvalidRecord` when any field exceeds its width. -/
def pack (f : Fields) : Except Fault Rec40 :=
  if fieldsInRange f then .ok (assemble f) else .error .invalidRecord

/-- The block integrated with a PACK front end (R117, R136, Program 5): from IDLE or DONE, a packed record is presented
with `start`, and `InvalidRecord` holds `start` at 0 and is recorded by fault entry. In any other stage the front end does
not act: no answer. DESIGN CHOICE (log entry 19). -/
def submit (f : Fields) (v : VariantInput) (mode : BitVec 1) (s : State) : Option State :=
  if s.stage = 0#4 ∨ s.stage = 9#4 then
    match pack f with
    | .ok rec => some (drive { s.pins with start := true, recI := rec, variantI := v, modeI := mode } s)
    | .error e => some (raise e (drive { s.pins with start := false } s))
  else none

end Sys2Proof.Machine
end

