-- ==== Sys2Proof/Machine/Encode.lean ====
section
/-! DEFINITION. ENCODE, the whole call as one function (R71), built from the stages' own functions. -/

namespace Sys2Proof.Machine

/-- The source's EncodedPassword: the flat symbol sequence and its grid view (R71, spec glossary). -/
structure EncodedPassword where
  symbols : List Glyph
  grid : List (List Glyph)
deriving DecidableEq, Repr

/-- The rotated record of a call (R71, first three lines). -/
def rotatedOf (m : Rec40) : Rec40 := rotateRight m (checksum2 m)

/-- The embedded value of a call, from its masked record (R71). -/
def embeddedOf (m : Rec40) : Emb48 := embedF (rotatedOf m) (checksum1 m) (checksum2 m)

/-- The mixed value of a call, from its masked record (R71). -/
def mixedOf (m : Rec40) : Emb48 := mixF (embeddedOf m)

/-- The symbol sequence of a call (R71). -/
def passwordOf (p : Params) (rec : Rec40) (cfg : VariantConfig) (mode : Mode) : List Glyph :=
  symbolsF p (mixedOf (maskF p.mask40 rec cfg mode)) cfg mode

/-- `ENCODE(rec, cfg, mode)` (R71), the open parameters an argument (R5). -/
def encodeRecord (p : Params) (rec : Rec40) (cfg : VariantConfig) (mode : Mode) : Except Fault EncodedPassword :=
  match toGrid (passwordOf p rec cfg mode) cfg.rows cfg.cols with
  | .ok grid => .ok ⟨passwordOf p rec cfg mode, grid⟩
  | .error f => .error f

end Sys2Proof.Machine
end

