-- ==== Sys2Proof/Machine/HostPort.lean ====
section
/-! DEFINITION. What the host reads (R42, R137): the outputs of the block and the stage-output registers. Every read but
that of the status outputs and `err` (in Flags.lean) answers no value outside DONE (D25, D30, log entry 18). -/

namespace Sys2Proof.Machine

/-- A stage-output register read by the host: defined only while `STAGE = 9` (R14, R42, R137). The model lets the host read
`R`, `CFG` and `MODE` in the same way, for which the spec names no host reader (R13): DESIGN CHOICE (log entry 24). -/
def hostReg {α : Type} (s : State) (r : Reg α) : Option α :=
  if s.stage = 9#4 then r.host? else none

/-- Output `len_o` (R54). -/
def lenOut (s : State) : Option (BitVec 5) := hostReg s s.len

/-- `SYM[i]` as the host reads it: an entry below `LEN` (R23). -/
def symAt (s : State) (i : Nat) : Option Glyph :=
  match lenOut s with
  | some n => if i < n.toNat then s.sym[i]?.bind (hostReg s) else none
  | none => none

/-- Output `sym_o[i]`: the character code of `SYM[i]` (R54). -/
def symOut (s : State) (i : Nat) : Option Byte := (symAt s i).map glyphCode

/-- The flat symbol sequence `SYM[0 .. LEN-1]` (R23). -/
def symbolsOut (s : State) : Option (List Glyph) :=
  match lenOut s with
  | some n => (List.range n.toNat).mapM (symAt s)
  | none => none

/-- The grid view `GRID[r][c]` (R109): defined when the shape check has passed (R32, R112). -/
def gridAt (s : State) (r c : Nat) : Option Glyph :=
  match hostReg s s.cfg with
  | some cfg => if r < cfg.rows ∧ c < cfg.cols ∧ shapeOk s then symAt s (gridIndex cfg.rows r c) else none
  | none => none

/-- The password the host takes from the block: the flat sequence and its grid view (R114, R146). -/
def passwordOut (s : State) : Option EncodedPassword :=
  match symbolsOut s, hostReg s s.cfg with
  | some syms, some cfg => if shapeOk s then some ⟨syms, gridRows syms cfg.rows cfg.cols⟩ else none
  | _, _ => none

/-- Output `text_o`: RENDER (R112). -/
def textOut (s : State) : Option (List Byte) := (passwordOut s).map fun w => render w.grid

end Sys2Proof.Machine
end

