-- ==== Sys2Proof/Machine/Run.lean ====
section
/-! DEFINITION. Runs under changing inputs: before each step the host sets the input levels, then the block steps. -/

namespace Sys2Proof.Machine

/-- One step per list element, the inputs set to that element first; it stops where a step has no next state. -/
def runPins : List Pins → State → Host.Outcome State Fault Refusal
  | [], s => .next s
  | p :: ps, s =>
    match step (drive p s) with
    | .next t => runPins ps t
    | .fault f => .fault f
    | .refused r => .refused r

end Sys2Proof.Machine
end

