-- ==== Sys2Proof/Safety.lean ====
section
/-! DEFINITION. What counts as a call in progress, completed or failed (R69, R146), and the invariant of the block: which
registers hold a value at each stage and what the values are (R14, R28, R63). -/

namespace Sys2Proof.Machine

/-- "A call has ended successfully exactly when `STAGE = 9`" (R146). -/
def Completed (s : State) : Prop := s.stage = 9#4

/-- "A call has ended in failure exactly when `STAGE = 15`" (R146). FAULT is never a completed call (R69). -/
def Failed (s : State) : Prop := s.stage = 15#4

/-- The stage code is one of the eleven operations' (R56); 10 to 14 are reserved (R57). -/
def LegalStage (s : State) : Prop := s.stage.toNat ≤ 9 ∨ s.stage = 15#4

/-- The data registers a stage writes hold no value (R28, R66). -/
def NoStageOutputs (s : State) : Prop :=
  s.m.held = false ∧ s.c1.held = false ∧ s.c2.held = false ∧ s.rot.held = false ∧ s.emb.held = false
    ∧ s.mixd.held = false ∧ s.len.held = false ∧ ∀ i : Fin 25, s.sym[i].held = false

/-- Every data register holds no value, as after reset (R30). -/
def NoValues (s : State) : Prop :=
  s.r.held = false ∧ s.cfg.held = false ∧ s.mode.held = false ∧ NoStageOutputs s

/-- Operation `n` of the present call has been performed: the counter has passed it, or the call has ended in
`ShapeMismatch` at GRID. -/
def afterOp (n : Nat) (s : State) : Bool :=
  (decide (2 ≤ s.stage.toNat) && decide (s.stage.toNat ≤ 9) && decide (n < s.stage.toNat))
    || (s.stage == 15#4 && s.err == 2#2)

/-- The registers belong to the present call or to none: everywhere but between a `start` in DONE and the LOAD that
discards the old results (R68, D39), and after `InvalidRecord`, which leaves the registers as they were (R122). -/
def ownRegisters (s : State) : Bool :=
  s.stage != 1#4 && !(s.stage == 15#4 && s.err == 1#2)

/-- A fault is recorded exactly in FAULT, and only one (R26, R121, R122, R125). -/
def ErrInv (s : State) : Prop :=
  if s.stage = 15#4 then s.err = 1#2 ∨ s.err = 2#2 else s.err = 0#2

/-- A register holds a value exactly when its writer has run in this call (R28). -/
def HeldInv (s : State) : Prop :=
  s.r.held = afterOp 1 s ∧ s.cfg.held = afterOp 1 s ∧ s.mode.held = afterOp 1 s ∧ s.m.held = afterOp 2 s
    ∧ s.c1.held = afterOp 3 s ∧ s.c2.held = afterOp 3 s ∧ s.rot.held = afterOp 4 s ∧ s.emb.held = afterOp 5 s
    ∧ s.mixd.held = afterOp 6 s ∧ s.len.held = afterOp 7 s
    ∧ ∀ i : Fin 25, s.sym[i].held = (afterOp 7 s && decide (i.val < s.cfg.val.passwordLength))

/-- Each register a stage has written holds what ENCODE gives it for the record, configuration and mode of the call
(R71). -/
def ValueInv (p : Params) (s : State) : Prop :=
  (afterOp 2 s = true → s.m.val = maskF p.mask40 s.r.val s.cfg.val s.mode.val)
    ∧ (afterOp 3 s = true → s.c1.val = checksum1 s.m.val ∧ s.c2.val = checksum2 s.m.val)
    ∧ (afterOp 4 s = true → s.rot.val = rotateRight s.m.val s.c2.val)
    ∧ (afterOp 5 s = true → s.emb.val = embedF s.rot.val s.c1.val s.c2.val)
    ∧ (afterOp 6 s = true → s.mixd.val = mixF s.emb.val)
    ∧ (afterOp 7 s = true → s.len.val = BitVec.ofNat 5 s.cfg.val.passwordLength
        ∧ ∀ i : Fin 25, i.val < s.cfg.val.passwordLength →
            (symbolsF p s.mixd.val s.cfg.val s.mode.val)[i.val]? = some s.sym[i].val)
    ∧ (s.stage = 9#4 → s.cfg.val.shapeMatches = true)
    ∧ (s.stage = 15#4 → s.err = 2#2 → s.cfg.val.shapeMatches = false)

/-- The invariant of one instance (R14, R26, R28, R57, R71). -/
def Inv (s : State) : Prop :=
  LegalStage s ∧ ErrInv s ∧ (ownRegisters s = true → HeldInv s ∧ ValueInv Config.params s)

end Sys2Proof.Machine
end

