-- ==== Sys2Proof/Certificates/Slice0/Obligations.lean ====
section
/-! DEFINITION. The statements about the PWENC model. Each docstring names the rule of the spec it formalises. -/

open Sys2Proof Sys2Proof.Machine

/-! ### Spec-level measures, written without the model's own functions -/

/-- The number of set bits of a 40-bit value (R81). -/
def Sys2Proof.bitCount (m : Rec40) : Nat := ((List.range 40).filter fun i => m.getLsbD i).length

/-- Nibble `i` of a 40-bit value, most significant first, by division (R7). -/
def Sys2Proof.nibbleAt (m : Rec40) (i : Nat) : Nat := m.toNat / 16 ^ (9 - i) % 16

/-- The sum of the ten nibbles of a 40-bit value (R82, R83). -/
def Sys2Proof.nibbleSum (m : Rec40) : Nat := ((List.range 10).map (nibbleAt m)).sum

/-- The six bytes of `MIXK`, most significant first, as R59 lists them. -/
def Sys2Proof.mixBytes : List Nat := [0x12, 0x34, 0x56, 0x78, 0x9A, 0xBC]

/-- Some field exceeds its declared width, in the order PACK's pseudocode lists them (R74). -/
def Sys2Proof.FieldOutOfRange (f : Fields) : Prop :=
  (∃ k : Fin 8, 1 < f.boss[k]) ∨ 1 < f.m ∨ (∃ k : Fin 8, 1 < f.item[k]) ∨ 7 < f.EEE ∨ 3 < f.ee ∨ 7 < f.WWW
    ∨ 1 < f.S ∨ 1 < f.B ∨ 1023 < f.P ∨ 7 < f.LLL

/-! ### Reset, decoding and the step -/

/-- R30: after reset STAGE is 0, ERR is 00, every data register holds no value, and busy, done and fault are 0. -/
def Obligations.ResetIsIdleAndHoldsNoValue : Prop :=
  State.reset.stage = 0#4 ∧ State.reset.err = 0#2 ∧ NoValues State.reset
    ∧ busy State.reset = false ∧ doneOut State.reset = false ∧ faultOut State.reset = false

/-- R132: reset from any state, reserved stage codes and FAULT among them, gives the state of R30; and without reset no
step leaves FAULT and no step clears a flag of ERR. -/
def Obligations.ResetFromAnyStateAndOnlyResetRecovers : Prop :=
  (∀ s : State, s.pins.rst = true →
      ∃ t, step s = .next t ∧ t.stage = 0#4 ∧ t.err = 0#2 ∧ NoValues t)
    ∧ ∀ s t : State, s.pins.rst = false → step s = .next t →
        (s.stage = 15#4 → t.stage = 15#4)
          ∧ ∀ i, i < 2 → s.err.getLsbD i = true → t.err.getLsbD i = true

/-- R64: without reset, a step performs exactly the operation that the stage code selects. -/
def Obligations.StepRunsTheSelectedOperation : Prop :=
  ∀ (s : State) (i : Instr), s.pins.rst = false → decode s.stage = .ok i → step s = exec i s

/-- R57: a state with a reserved stage code has no step, and no step of any state writes a reserved code. -/
def Obligations.ReservedStageCodesHaveNoStep : Prop :=
  (∀ s : State, s.pins.rst = false → 10 ≤ s.stage.toNat → s.stage.toNat ≤ 14 →
      step s = .refused (.reservedStage s.stage))
    ∧ ∀ s t : State, step s = .next t → t.stage.toNat ≤ 9 ∨ t.stage = 15#4

/-- R56: the eleven codes of the opcode map and what each selects; the five others select nothing (R57). -/
def Obligations.OpcodeMapDecodes : Prop :=
  decode 0b0000#4 = .ok .idle ∧ decode 0b0001#4 = .ok .load ∧ decode 0b0010#4 = .ok .mask
    ∧ decode 0b0011#4 = .ok .csum ∧ decode 0b0100#4 = .ok .rotr ∧ decode 0b0101#4 = .ok .embed
    ∧ decode 0b0110#4 = .ok .mix ∧ decode 0b0111#4 = .ok .symenc ∧ decode 0b1000#4 = .ok .grid
    ∧ decode 0b1001#4 = .ok .done ∧ decode 0b1111#4 = .ok .fault
    ∧ ∀ c : StageCode, 10 ≤ c.toNat → c.toNat ≤ 14 → decode c = .error (.reserved c)

/-- Decode and encode agree in both directions (R56). -/
def Obligations.DecodeAndEncodeAgree : Prop :=
  (∀ i : Instr, decode (encode i) = .ok i) ∧ ∀ (c : StageCode) (i : Instr), decode c = .ok i → encode i = c

/-- No step ends in a fault outcome, since fault entry is a next state (R122); the only states without a step are those
with a reserved code and no reset. Rests on log entry 5. -/
def Obligations.OnlyReservedCodesStopTheMachine : Prop :=
  ∀ s : State, (∃ t, step s = .next t)
    ∨ (s.pins.rst = false ∧ 10 ≤ s.stage.toNat ∧ s.stage.toNat ≤ 14 ∧ step s = .refused (.reservedStage s.stage))

/-! ### The control operations -/

/-- R65: IDLE writes STAGE alone, 1 on `start` and 0 without; so with `start` low an idle block stays as it is. -/
def Obligations.IdleWaitsForStart : Prop :=
  (∀ s : State, exec .idle s = .next { s with stage := if s.pins.start then 1#4 else 0#4 })
    ∧ ∀ s : State, s.stage = 0#4 → s.pins.rst = false → s.pins.start = false → step s = .next s

/-- R68, the operation: DONE writes STAGE alone, 1 on `start` and 9 without; the output `done` is high while STAGE is 9. -/
def Obligations.DoneKeepsResultsUntilStart : Prop :=
  (∀ s : State, exec .done s = .next { s with stage := if s.pins.start then 1#4 else 9#4 })
    ∧ ∀ s : State, s.stage = 9#4 → s.pins.rst = false → s.pins.start = false →
        step s = .next s ∧ doneOut s = true

/-- R69: FAULT writes 15 to STAGE and nothing else; the block stays there whatever `start` is, with `done` and `busy` low
and `fault` high, and is no completed call; reset leaves it. -/
def Obligations.FaultStateStaysUntilReset : Prop :=
  (∀ s : State, exec .fault s = .next { s with stage := 15#4 })
    ∧ (∀ s : State, s.stage = 15#4 →
        (s.pins.rst = false → step s = .next s) ∧ doneOut s = false ∧ busy s = false ∧ faultOut s = true
          ∧ ¬ Completed s)
    ∧ ∀ s : State, s.stage = 15#4 → s.pins.rst = true → ∃ t, step s = .next t ∧ t.stage = 0#4

/-- R66: LOAD latches the three inputs, makes every other data register hold no value, leaves ERR and goes to 2. -/
def Obligations.LoadLatchesTheInputs : Prop :=
  ∀ s : State, ∃ t, exec .load s = .next t
    ∧ t.r = ⟨s.pins.recI, true⟩
    ∧ t.cfg = ⟨match s.pins.variantI with
        | .index v => if v = 0#1 then vcfg Config.params .VAR24 else vcfg Config.params .VAR25
        | .record c => c, true⟩
    ∧ t.mode = ⟨if s.pins.modeI = 0#1 then .AUTH else .DEMO, true⟩
    ∧ NoStageOutputs t ∧ t.stage = 2#4 ∧ t.err = s.err ∧ t.pins = s.pins

/-- R51, R52, R53: what a well-formed configuration is, what the two entries of the configuration table are, for every value
of the open parameters, and what the one-bit inputs select. -/
def Obligations.ConfigurationTableEntries : Prop :=
  variantOfBit 0#1 = .VAR24 ∧ variantOfBit 1#1 = .VAR25 ∧ modeOfBit 0#1 = .AUTH ∧ modeOfBit 1#1 = .DEMO
  ∧ (∀ m : Mode, modeOfBit (modeBit m) = m)
  ∧ (∀ c : VariantConfig, c.wellFormed = true ↔
      (c.g10 = .B ∨ c.g10 = .T) ∧ c.rows * c.cols = (if c.trailer then 25 else 24))
  ∧ ∀ p : Params,
    (vcfg p .VAR24).trailer = false ∧ (vcfg p .VAR24).rows = 4 ∧ (vcfg p .VAR24).cols = 6
    ∧ (vcfg p .VAR25).trailer = true ∧ (vcfg p .VAR25).rows = 5 ∧ (vcfg p .VAR25).cols = 5
    ∧ ((vcfg p .VAR24).g10 = tenGlyph p.g10Of24)
    ∧ (((vcfg p .VAR24).g10 = .B ∧ (vcfg p .VAR25).g10 = .T) ∨ ((vcfg p .VAR24).g10 = .T ∧ (vcfg p .VAR25).g10 = .B))
    ∧ ((vcfg p .VAR24).hclr = true ↔ p.hUnusedVariant = .VAR24)
    ∧ ((vcfg p .VAR25).hclr = true ↔ p.hUnusedVariant = .VAR25)
    ∧ ∀ v, (vcfg p v).wellFormed = true ∧ (vcfg p v).rows < 8 ∧ (vcfg p v).cols < 8

/-! ### The data operations: result and frame -/

/-- R75: MASK writes M and STAGE alone; bit `i` of M is bit `i` of R, or 0 where `i` is 23 and the variant requires the
correction in authentic mode, XOR bit `i` of the mask; with the worked example. -/
def Obligations.MaskWritesTheMaskedRecord : Prop :=
  (∀ s : State, ∃ m : Rec40, exec .mask s = .next { s with m := ⟨m, true⟩, stage := 3#4 }
    ∧ ∀ i, i < 40 → m.getLsbD i
        = ((s.r.val.getLsbD i && !(decide (i = 23) && s.cfg.val.hclr && decide (s.mode.val = .AUTH)))
            ^^ Config.params.mask40.getLsbD i))
    ∧ ∀ (cfg : VariantConfig) (mode : Mode), cfg.hclr = false →
        maskF 0xA5C3F0961E#40 0xFFFFFFFFFF#40 cfg mode = 0x5A3C0F69E1#40

/-- R80: CSUM writes C1, C2 and STAGE alone: the bit count modulo 8 and the nibble sum modulo 32; with the worked
example. -/
def Obligations.CsumWritesBothChecksums : Prop :=
  (∀ s : State, ∃ (a : Check1) (b : Check2),
    exec .csum s = .next { s with c1 := ⟨a, true⟩, c2 := ⟨b, true⟩, stage := 4#4 }
      ∧ a.toNat = bitCount s.m.val % 8 ∧ b.toNat = nibbleSum s.m.val % 32)
    ∧ bitCount 0x0123456789#40 = 15 ∧ nibbleSum 0x0123456789#40 = 45
    ∧ checksum1 0x0123456789#40 = 7#3 ∧ checksum2 0x0123456789#40 = 13#5

/-- R86: ROTR writes ROT and STAGE alone: bit `i` of ROT is bit `(i + C2) mod 40` of M; with the worked example. -/
def Obligations.RotrRotatesRightByChecksum2 : Prop :=
  (∀ s : State, ∃ x : Rec40, exec .rotr s = .next { s with rot := ⟨x, true⟩, stage := 5#4 }
    ∧ ∀ i, i < 40 → x.getLsbD i = s.m.val.getLsbD ((i + s.c2.val.toNat) % 40))
    ∧ rotateRight 0x0123456789#40 13#5 = 0x3C48091A2B#40

/-- R91: EMBED writes EMB and STAGE alone: `ROT * 256 + C1 * 32 + C2`; with the worked example. -/
def Obligations.EmbedAppendsTheChecksums : Prop :=
  (∀ s : State, ∃ x : Emb48, exec .embed s = .next { s with emb := ⟨x, true⟩, stage := 6#4 }
    ∧ x.toNat = s.rot.val.toNat * 256 + s.c1.val.toNat * 32 + s.c2.val.toNat)
    ∧ embedF 0x3C48091A2B#40 7#3 13#5 = 0x3C48091A2BED#48

/-- R95: MIX writes MIXD and STAGE alone: byte `i`, counted from the most significant, is the sum of byte `i` of EMB and
byte `i` of MIXK modulo 256; with the worked example. -/
def Obligations.MixAddsTheConstantByteByByte : Prop :=
  (∀ s : State, ∃ x : Emb48, exec .mix s = .next { s with mixd := ⟨x, true⟩, stage := 7#4 }
    ∧ ∀ (i k : Nat), mixBytes[i]? = some k →
        x.toNat / 256 ^ (5 - i) % 256 = (s.emb.val.toNat / 256 ^ (5 - i) % 256 + k) % 256)
    ∧ mixF 0x3C48091A2BED#48 = 0x4E7C5F92C5A9#48

/-- R100: SYMENC writes SYM, LEN and STAGE alone: symbol `j` is the table's glyph for bits `47-2j` and `46-2j` of MIXD, the
trailer is entry 24 where the variant has one and entry 24 holds no value otherwise, and LEN is 25 or 24; with the worked
example. -/
def Obligations.SymencMapsTheTwoBitCodes : Prop :=
  (∀ s : State, ∃ (sym : Vector (Reg Glyph) 25) (len : BitVec 5),
    exec .symenc s = .next { s with sym := sym, len := ⟨len, true⟩, stage := 8#4 }
      ∧ len.toNat = (if s.cfg.val.trailer then 25 else 24)
      ∧ (∀ j : Fin 25, j.val < 24 → sym[j] =
          ⟨match s.mixd.val.getLsbD (47 - 2 * j.val), s.mixd.val.getLsbD (46 - 2 * j.val) with
            | false, false => .R
            | false, true => .E
            | true, false => s.cfg.val.g10
            | true, true => .DASH, true⟩)
      ∧ (s.cfg.val.trailer = true → sym[24] =
          ⟨if s.mode.val = .AUTH then Config.params.trailerAuth else Config.params.trailerDemo, true⟩)
      ∧ (s.cfg.val.trailer = false → sym[24].held = false))
    ∧ ∀ (p : Params) (cfg : VariantConfig) (mode : Mode), cfg.g10 = .B → cfg.trailer = false →
        symbolsF p 0x4E7C5F92C5A9#48 cfg mode =
          [.E, .R, .DASH, .B, .E, .DASH, .DASH, .R, .E, .E, .DASH, .DASH,
            .B, .E, .R, .B, .DASH, .R, .E, .E, .B, .B, .B, .E]

/-- R108: GRID writes STAGE alone when the shape matches LEN, and otherwise sets ERR[1] and goes to FAULT, touching
nothing else; with the worked example of the grid. -/
def Obligations.GridChecksTheShape : Prop :=
  (∀ s : State, s.cfg.val.rows * s.cfg.val.cols = s.len.val.toNat → exec .grid s = .next { s with stage := 9#4 })
    ∧ (∀ s : State, s.cfg.val.rows * s.cfg.val.cols ≠ s.len.val.toNat →
        exec .grid s = .next { s with err := s.err ||| 2#2, stage := 15#4 })
    ∧ toGrid
        [.E, .R, .DASH, .B, .E, .DASH, .DASH, .R, .E, .E, .DASH, .DASH,
          .B, .E, .R, .B, .DASH, .R, .E, .E, .B, .B, .B, .E] 4 6
      = .ok [[.E, .E, .E, .B, .DASH, .B], [.R, .DASH, .E, .E, .R, .B], [.DASH, .DASH, .DASH, .R, .E, .B],
          [.B, .R, .DASH, .B, .E, .E]]

/-! ### Faults and whole-machine rules -/

/-- R122: fault entry sets the flag of the fault's code and STAGE 15, changes nothing else, and leaves no result. -/
def Obligations.FaultEntrySetsFlagAndStage : Prop :=
  ∀ (f : Fault) (s : State),
    (∃ e : ErrFlags, raise f s = { s with err := e, stage := 15#4 }
      ∧ ∀ i, i < 2 → e.getLsbD i = (s.err.getLsbD i || decide (i + 1 = faultCode f)))
    ∧ faultCode .invalidRecord = 1 ∧ faultCode .shapeMismatch = 2
    ∧ doneOut (raise f s) = false ∧ passwordOut (raise f s) = none ∧ textOut (raise f s) = none
    ∧ ∀ r c, gridAt (raise f s) r c = none

/-- R26: a step without reset changes ERR only by the fault entry of GRID, which sets ERR[1]; a set bit stays set; reset
clears both; the host reads ERR in any state. -/
def Obligations.ErrChangesOnlyByFaultEntryOrReset : Prop :=
  (∀ s t : State, s.pins.rst = false → step s = .next t →
      t.err = s.err ∨ (s.stage = 8#4 ∧ s.cfg.val.rows * s.cfg.val.cols ≠ s.len.val.toNat ∧ t.stage = 15#4
        ∧ t.err.getLsbD 1 = true ∧ t.err.getLsbD 0 = s.err.getLsbD 0))
    ∧ (∀ s t : State, s.pins.rst = true → step s = .next t → t.err = 0#2)
    ∧ ∀ s : State, errOut s = s.err

/-- R67: operations 2 to 7 advance STAGE by one; operation 8 goes to 9, or to the state of fault entry. -/
def Obligations.DataOperationsAdvanceTheStage : Prop :=
  ∀ s : State, s.pins.rst = false →
    (2 ≤ s.stage.toNat → s.stage.toNat ≤ 7 → ∃ t, step s = .next t ∧ t.stage.toNat = s.stage.toNat + 1)
    ∧ (s.stage = 8#4 → s.cfg.val.rows * s.cfg.val.cols = s.len.val.toNat → ∃ t, step s = .next t ∧ t.stage = 9#4)
    ∧ (s.stage = 8#4 → s.cfg.val.rows * s.cfg.val.cols ≠ s.len.val.toNat → step s = .next (raise .shapeMismatch s))

/-- R70: the only transfers of STAGE; within a call STAGE never decreases. -/
def Obligations.OnlyTheListedStageTransfers : Prop :=
  ∀ s t : State, step s = .next t →
    (s.pins.rst = true → t.stage = 0#4)
    ∧ (s.pins.rst = false →
        ((s.stage = 0#4 ∨ s.stage = 9#4) ∧ s.pins.start = true ∧ t.stage = 1#4)
        ∨ ((s.stage = 0#4 ∨ s.stage = 9#4) ∧ s.pins.start = false ∧ t.stage = s.stage)
        ∨ (1 ≤ s.stage.toNat ∧ s.stage.toNat ≤ 8 ∧ t.stage.toNat = s.stage.toNat + 1)
        ∨ (s.stage = 8#4 ∧ shapeOk s = false ∧ t.stage = 15#4)
        ∨ (s.stage = 15#4 ∧ t.stage = 15#4))

/-- R13, R14: outside LOAD and reset, each register changes only at the stage of its one writer; and no step, reset among
them, changes the input levels (the model's choice, log entries 6 and 7). -/
def Obligations.EachRegisterHasOneWriter : Prop :=
  (∀ s t : State, step s = .next t → t.pins = s.pins)
  ∧ ∀ s t : State, s.pins.rst = false → step s = .next t →
    (s.stage ≠ 1#4 →
        t.r = s.r ∧ t.cfg = s.cfg ∧ t.mode = s.mode
        ∧ (s.stage ≠ 2#4 → t.m = s.m) ∧ (s.stage ≠ 3#4 → t.c1 = s.c1 ∧ t.c2 = s.c2)
        ∧ (s.stage ≠ 4#4 → t.rot = s.rot) ∧ (s.stage ≠ 5#4 → t.emb = s.emb) ∧ (s.stage ≠ 6#4 → t.mixd = s.mixd)
        ∧ (s.stage ≠ 7#4 → t.sym = s.sym ∧ t.len = s.len))
    ∧ (s.stage ≠ 8#4 → t.err = s.err)

/-- R73: the record, variant and mode inputs are read by LOAD only and `start` by IDLE and DONE only: under any other
change of the inputs the step does the same. -/
def Obligations.InputsAreSampledOnlyWhereStated : Prop :=
  ∀ (s : State) (p : Pins), s.pins.rst = false → p.rst = false → LegalStage s →
    (s.stage = 1#4 → p.recI = s.pins.recI ∧ p.variantI = s.pins.variantI ∧ p.modeI = s.pins.modeI) →
    (s.stage = 0#4 ∨ s.stage = 9#4 → p.start = s.pins.start) →
    ∃ t, step s = .next t ∧ step (drive p s) = .next (drive p t)

/-- R27: busy, done, fault and err are functions of STAGE and ERR. -/
def Obligations.StatusOutputsFollowStageAndErr : Prop :=
  ∀ s : State, (busy s = true ↔ 1 ≤ s.stage.toNat ∧ s.stage.toNat ≤ 8) ∧ (doneOut s = true ↔ s.stage = 9#4)
    ∧ errOut s = s.err ∧ (faultOut s = true ↔ s.stage = 15#4)

/-! ### The invariant -/

/-- The invariant holds after reset. -/
def Obligations.InvariantHoldsAtReset : Prop := Inv State.reset

/-- Every step keeps the invariant: the stage code is legal, at most one fault is recorded and only in FAULT, a register
holds a value exactly when its writer has run in this call, and the values are those of ENCODE (R14, R26, R28, R57, R71).
-/
def Obligations.EveryStepKeepsTheInvariant : Prop :=
  ∀ s t : State, Inv s → step s = .next t → Inv t

/-- What the host and the front end do between steps keeps the invariant: driving any input levels, and submitting fields
(R42, R117; the front end's integration is log entry 19). -/
def Obligations.HostActionsKeepTheInvariant : Prop :=
  (∀ (s : State) (p : Pins), Inv s → Inv (drive p s))
    ∧ ∀ (f : Fields) (v : VariantInput) (mode : BitVec 1) (s t : State), Inv s → submit f v mode s = some t → Inv t

/-- R146: in DONE of a state that meets the invariant, the host reads exactly what ENCODE gives for the call's record,
configuration and mode. That the host reads these three, `R`, `CFG` and `MODE`, is the model's choice, log entry 24. -/
def Obligations.DoneShowsTheEncodedPassword : Prop :=
  ∀ s : State, Inv s → s.stage = 9#4 →
    ∃ (rec : Rec40) (cfg : VariantConfig) (mode : Mode) (w : EncodedPassword),
      hostReg s s.r = some rec ∧ hostReg s s.cfg = some cfg ∧ hostReg s s.mode = some mode
        ∧ encodeRecord Config.params rec cfg mode = .ok w ∧ passwordOut s = some w
        ∧ lenOut s = some (BitVec.ofNat 5 w.symbols.length) ∧ textOut s = some (render w.grid)

/-! ### Whole calls -/

/-- R71: from LOAD, eight steps without reset, whatever the inputs do after the first, reach DONE with the result of
ENCODE of the inputs sampled at LOAD, or FAULT with ERR[1] set exactly when ENCODE gives ShapeMismatch. -/
def Obligations.CallComputesEncodeInEightSteps : Prop :=
  ∀ (s : State) (p : Pins) (ps : List Pins), s.stage = 1#4 → p.rst = false → ps.length = 7 →
    (∀ q ∈ ps, q.rst = false) →
    (∀ w, encodeRecord Config.params p.recI (configInput Config.params p.variantI) (modeOfBit p.modeI) = .ok w →
      ∃ t, runPins (p :: ps) s = .next t ∧ t.stage = 9#4 ∧ t.err = s.err ∧ passwordOut t = some w
        ∧ lenOut t = some (BitVec.ofNat 5 w.symbols.length)
        ∧ ∀ r k, gridAt t r k = w.grid[r]?.bind fun row => row[k]?)
    ∧ (∀ f, encodeRecord Config.params p.recI (configInput Config.params p.variantI) (modeOfBit p.modeI) = .error f →
      f = .shapeMismatch ∧ ∃ t, runPins (p :: ps) s = .next t ∧ t.stage = 15#4 ∧ t.err = s.err ||| 2#2
        ∧ passwordOut t = none)

/-- R63: the stages of a call follow in the fixed order, one step each: after `k` steps from LOAD, `k` at most 7, STAGE is
`k + 1`. -/
def Obligations.StagesFollowInFixedOrder : Prop :=
  ∀ (s : State) (ps : List Pins), s.stage = 1#4 → ps.length ≤ 7 → (∀ q ∈ ps, q.rst = false) →
    ∃ t, runPins ps s = .next t ∧ t.stage.toNat = ps.length + 1

/-- R72: for a well-formed configuration ENCODE is total and never faults; two calls with the same sampled inputs read out
the same, from whatever states they began and however the inputs moved after LOAD. -/
def Obligations.CallsDoNotDependOnHistory : Prop :=
  (∀ (p : Params) (rec : Rec40) (cfg : VariantConfig) (mode : Mode), cfg.wellFormed = true →
    ∃ w, encodeRecord p rec cfg mode = .ok w) ∧
  ∀ (s₁ s₂ : State) (p₁ p₂ : Pins) (ps₁ ps₂ : List Pins), s₁.stage = 1#4 → s₂.stage = 1#4 →
    ps₁.length = 7 → ps₂.length = 7 → p₁.rst = false → p₂.rst = false →
    (∀ q ∈ ps₁, q.rst = false) → (∀ q ∈ ps₂, q.rst = false) →
    p₁.recI = p₂.recI → p₁.variantI = p₂.variantI → p₁.modeI = p₂.modeI →
    ∃ t₁ t₂, runPins (p₁ :: ps₁) s₁ = .next t₁ ∧ runPins (p₂ :: ps₂) s₂ = .next t₂
      ∧ t₁.stage = t₂.stage ∧ passwordOut t₁ = passwordOut t₂ ∧ textOut t₁ = textOut t₂ ∧ lenOut t₁ = lenOut t₂
      ∧ t₁.m = t₂.m ∧ t₁.c1 = t₂.c1 ∧ t₁.c2 = t₂.c2 ∧ t₁.rot = t₂.rot ∧ t₁.emb = t₂.emb ∧ t₁.mixd = t₂.mixd

/-- R118, R110: ENCODE fails exactly when `rows * cols` is not the length the trailer flag gives, always with
ShapeMismatch, whatever the record, the mode and the open parameters; so for both table entries it never fails. -/
def Obligations.EncodeFailsExactlyOnShapeMismatch : Prop :=
  (∀ (p : Params) (rec : Rec40) (cfg : VariantConfig) (mode : Mode),
    ((∃ w, encodeRecord p rec cfg mode = .ok w) ↔ cfg.rows * cfg.cols = (if cfg.trailer then 25 else 24))
      ∧ (cfg.rows * cfg.cols ≠ (if cfg.trailer then 25 else 24) → encodeRecord p rec cfg mode = .error .shapeMismatch))
    ∧ ∀ (p q : Params) (rec : Rec40) (v : Variant) (mode : Mode), ∃ w, encodeRecord p rec (vcfg q v) mode = .ok w

/-- A password of a well-formed configuration determines the corrected record (R106 and the inverses of spec
95_test_vectors.md): two records give the same call exactly when they agree after the correction. So in demo mode the record
itself is determined, and in authentic mode of a variant with the correction exactly the bits other than 23 are (R76). -/
def Obligations.PasswordDeterminesTheCorrectedRecord : Prop :=
  ∀ (p : Params) (a b : Rec40) (cfg : VariantConfig), cfg.wellFormed = true →
    (∀ mode, encodeRecord p a cfg mode = encodeRecord p b cfg mode ↔ corrected a cfg mode = corrected b cfg mode)
    ∧ (encodeRecord p a cfg .DEMO = encodeRecord p b cfg .DEMO → a = b)
    ∧ (cfg.hclr = true → (encodeRecord p a cfg .AUTH = encodeRecord p b cfg .AUTH ↔
        ∀ i, i < 40 → i ≠ 23 → a.getLsbD i = b.getLsbD i))

/-! ### Masker -/

/-- R76: the correction is applied exactly when the variant requires it and the mode is authentic. R77: it forces bit 23 to
0 and keeps every other bit; it is XOR of the bit with itself; it equals the toggle exactly when bit 23 was 1. -/
def Obligations.CorrectionForcesBitHToZero : Prop :=
  (∀ (rec : Rec40) (cfg : VariantConfig),
    corrected rec cfg .DEMO = rec ∧ (cfg.hclr = false → corrected rec cfg .AUTH = rec))
  ∧ ∀ (rec : Rec40) (cfg : VariantConfig), cfg.hclr = true →
    (corrected rec cfg .AUTH).getLsbD 23 = false
    ∧ (∀ i, i ≠ 23 → (corrected rec cfg .AUTH).getLsbD i = rec.getLsbD i)
    ∧ corrected rec cfg .AUTH = rec ^^^ (rec &&& (1#40 <<< 23))
    ∧ (corrected rec cfg .AUTH = rec ^^^ (1#40 <<< 23) ↔ rec.getLsbD 23 = true)

/-- R79: XOR with the mask again recovers the corrected record; the zero record gives the mask and the mask gives zero; the
map is one-to-one without correction, and with it identifies exactly the pairs differing in bit 23. -/
def Obligations.MaskIsAnInvolutionUpToBitH : Prop :=
  ∀ (mask : Rec40) (cfg : VariantConfig) (mode : Mode),
    (∀ rec, maskF mask rec cfg mode ^^^ mask = corrected rec cfg mode)
    ∧ maskF mask 0#40 cfg mode = mask
    ∧ ((cfg.hclr = true → mode = .AUTH → mask.getLsbD 23 = false) → maskF mask mask cfg mode = 0#40)
    ∧ (¬(cfg.hclr = true ∧ mode = .AUTH) → Function.Bijective fun rec => maskF mask rec cfg mode)
    ∧ (cfg.hclr = true → mode = .AUTH → ∀ a b : Rec40,
        maskF mask a cfg mode = maskF mask b cfg mode ↔ ∀ i, i < 40 → i ≠ 23 → a.getLsbD i = b.getLsbD i)

/-! ### Checksums and rotation -/

/-- R82, R83: groups 0 and 1 of the zero-extended value are 0 and groups 2 to 11 are the ten nibbles, so the sum over the
twelve groups is the sum over the ten nibbles; a 5-bit accumulator that wraps at every addition gives the same checksum2.
R81: checksum1 is the bit count modulo 8. With the corner cases R81 and R82 list. -/
def Obligations.Checksum2TwelveGroupsOrTen : Prop :=
  (∀ m : Rec40,
    group 4 (m.setWidth 48) 0 = 0#4 ∧ group 4 (m.setWidth 48) 1 = 0#4
    ∧ (∀ i, i < 10 → group 4 (m.setWidth 48) (i + 2) = nibOf m i)
    ∧ ((List.range 12).map fun i => (group 4 (m.setWidth 48) i).toNat).sum = nibbleSum m
    ∧ (checksum2 m).toNat = nibbleSum m % 32
    ∧ checksum2 m = (List.range 10).foldl (fun acc i => acc + (nibOf m i).setWidth 5) 0#5)
    ∧ (∀ m : Rec40, (checksum1 m).toNat = bitCount m % 8
        ∧ (bitCount m = 8 ∨ bitCount m = 16 ∨ bitCount m = 24 ∨ bitCount m = 32 → checksum1 m = 0#3)
        ∧ (bitCount m = 7 → checksum1 m = 7#3))
    ∧ checksum1 0#40 = 0#3 ∧ checksum1 0xFFFFFFFFFF#40 = 0#3 ∧ checksum2 0#40 = 0#5 ∧ checksum2 0xFFFFFFFFFF#40 = 22#5
    ∧ checksum2 0x0000000020#40 = 2#5 ∧ checksum2 0xF000000000#40 = 15#5 ∧ checksum2 0xFF00000000#40 = 30#5
    ∧ checksum2 0xFFF0000000#40 = 13#5

/-- R85: the bit count, so checksum1, is kept by every rotation; checksum2 is not. -/
def Obligations.RotationKeepsChecksum1Only : Prop :=
  (∀ (m : Rec40) (a : Check2), bitCount (rotateRight m a) = bitCount m ∧ checksum1 (rotateRight m a) = checksum1 m)
    ∧ checksum2 (rotateRight 1#40 1#5) ≠ checksum2 1#40

/-- R87: bit `i` of the rotation by `a` is bit `(i + a) mod 40`; the `a` low bits become the high bits and the others move
down; the population count is preserved. -/
def Obligations.RotateRightMovesLowBitsToTheTop : Prop :=
  ∀ (m : Rec40) (a : Check2),
    (∀ i, i < 40 → (rotateRight m a).getLsbD i = m.getLsbD ((i + a.toNat) % 40))
    ∧ (rotateRight m a).toNat = m.toNat / 2 ^ a.toNat + (m.toNat % 2 ^ a.toNat) * 2 ^ (40 - a.toNat)
    ∧ bitCount (rotateRight m a) = bitCount m

/-- R88: rotation by 0 changes nothing, and C2 is 0 for the zero record and for nibble sums 32, 64, 96 and 128. R90: zero and
all ones are fixed by every amount, and the other corner cases. -/
def Obligations.RotateByZeroAndCornerCases : Prop :=
  (∀ m : Rec40, rotateRight m 0#5 = m)
    ∧ (∀ a : Check2, rotateRight 0#40 a = 0#40 ∧ rotateRight 0xFFFFFFFFFF#40 a = 0xFFFFFFFFFF#40)
    ∧ rotateRight 0x0000000001#40 1#5 = 0x8000000000#40 ∧ rotateRight 0x0000000001#40 31#5 = 0x0000000200#40
    ∧ rotateRight 0x8000000000#40 31#5 = 0x0000000100#40 ∧ rotateRight 0x00000000FF#40 4#5 = 0xF00000000F#40
    ∧ checksum2 0#40 = 0#5
    ∧ ∀ m : Rec40, nibbleSum m = 32 ∨ nibbleSum m = 64 ∨ nibbleSum m = 96 ∨ nibbleSum m = 128 → checksum2 m = 0#5

/-- R89: `rotate_left` is the inverse of `rotate_right` on both sides, and bit `i` of it is bit `(i - k) mod 40`, which is the
rotation right by `40 - k`. -/
def Obligations.RotateLeftUndoesRotateRight : Prop :=
  ∀ (x : Rec40) (k : Check2),
    rotateRight (rotateLeft x k) k = x ∧ rotateLeft (rotateRight x k) k = x ∧ rotateRight x 0#5 = x ∧ rotateLeft x 0#5 = x
    ∧ ∀ i, i < 40 → (rotateLeft x k).getLsbD i = x.getLsbD ((i + (40 - k.toNat)) % 40)

/-! ### Embedder and mixer -/

/-- R92, R94: the fields stand at 47..8, 7..5 and 4..0, so truncation recovers each; with the corner cases. -/
def Obligations.EmbeddedFieldsAreRecoverable : Prop :=
  (∀ (rot : Rec40) (c1 : Check1) (c2 : Check2),
    (embedF rot c1 c2).extractLsb' 8 40 = rot ∧ (embedF rot c1 c2).extractLsb' 5 3 = c1
      ∧ (embedF rot c1 c2).extractLsb' 0 5 = c2)
    ∧ embedF 0#40 0#3 0#5 = 0#48 ∧ embedF 0xFFFFFFFFFF#40 0#3 22#5 = 0xFFFFFFFFFF16#48
    ∧ embedF 0#40 7#3 31#5 = 0x0000000000FF#48

/-- R36: bytes, nibbles and two-bit groups of one value nest, most significant first, so byte `i` of the mixed value yields
the symbols `4i` to `4i + 3`; the embedded value's bytes are the rotated record's five bytes and the checksum byte. -/
def Obligations.GroupsNestMostSignificantFirst : Prop :=
  (∀ (v : Emb48) (i : Nat), i < 6 →
      byteOf v i = dibitOf v (4 * i) ++ dibitOf v (4 * i + 1) ++ dibitOf v (4 * i + 2) ++ dibitOf v (4 * i + 3))
    ∧ (∀ (rot : Rec40) (c1 : Check1) (c2 : Check2),
        (∀ i, i < 5 → byteOf (embedF rot c1 c2) i = rot.extractLsb' (32 - 8 * i) 8)
          ∧ byteOf (embedF rot c1 c2) 5 = c1 ++ c2)
    ∧ (∀ (p : Params) (v : Emb48) (cfg : VariantConfig) (mode : Mode) (i k : Nat), i < 6 → k < 4 →
        (symbolsF p v cfg mode)[4 * i + k]? = some (lut cfg.g10 (group 2 (byteOf v i) k)))
    ∧ ∀ (v : Rec40) (j : Nat), j < 5 → v.extractLsb' (32 - 8 * j) 8 = nibOf v (2 * j) ++ nibOf v (2 * j + 1)

/-- R97: each lane is the sum of its two bytes modulo 256, with no carry from another lane, and the result is the 48-bit sum
exactly when none of lanes 1 to 5 overflows. -/
def Obligations.MixLanesDoNotCarry : Prop :=
  (∀ (e : Emb48) (i : Nat), i < 6 → (byteOf (mixF e) i).toNat = ((byteOf e i).toNat + (byteOf mixK i).toNat) % 256)
    ∧ (∀ e : Emb48, mixF e = e + mixK ↔
        ∀ i, 1 ≤ i → i < 6 → (byteOf e i).toNat + (byteOf mixK i).toNat < 256)
    ∧ mixF 0x0000000000FF#48 ≠ 0x0000000000FF#48 + mixK

/-- R99: byte-wise subtraction undoes the mixing on both sides, so the map is a bijection; with the corner cases. -/
def Obligations.MixIsUndoneByLaneSubtraction : Prop :=
  (∀ e : Emb48, unmixF (mixF e) = e ∧ mixF (unmixF e) = e) ∧ Function.Bijective mixF
    ∧ mixF 0#48 = 0x123456789ABC#48 ∧ mixF 0xFFFFFFFFFFFF#48 = 0x1133557799BB#48 ∧ mixF 0xEECCAA886644#48 = 0#48

/-! ### Symbols -/

/-- R106: within a variant the table is injective, and across variants the glyphs but that of code `10` are shared; so the
first 24 symbols determine the mixed value, whatever the mode and the trailers. -/
def Obligations.SymbolsDetermineTheMixedValue : Prop :=
  (∀ k : Dibit, lut .B k = lut .T k ↔ k ≠ 2#2) ∧
  ∀ (cfg : VariantConfig), cfg.g10 = .B ∨ cfg.g10 = .T →
    Function.Injective (lut cfg.g10)
    ∧ ∀ (p q : Params) (x y : Emb48) (mode mode' : Mode),
        (symbolsF p x cfg mode).take 24 = (symbolsF q y cfg mode').take 24 → x = y

/-- R105: the sequence has 24 symbols, or 25 with a trailer, whatever the mixed value and the mode. R107: the corner cases of
the symbol table, for every variant, mode and parameter. -/
def Obligations.PasswordLengthAndSymbolCornerCases : Prop :=
  ∀ (p : Params) (cfg : VariantConfig) (mode : Mode),
    (∀ x : Emb48, (symbolsF p x cfg mode).length = if cfg.trailer then 25 else 24)
    ∧ (symbolsF p 0#48 cfg mode).take 24 = List.replicate 24 .R
    ∧ (symbolsF p 0xFFFFFFFFFFFF#48 cfg mode).take 24 = List.replicate 24 .DASH
    ∧ (symbolsF p 0xAAAAAAAAAAAA#48 cfg mode).take 24 = List.replicate 24 cfg.g10
    ∧ (symbolsF p 0x555555555555#48 cfg mode).take 24 = List.replicate 24 .E
    ∧ (symbolsF p 0x1B1B1B1B1B1B#48 cfg mode).take 24
        = (List.replicate 6 [Glyph.R, .E, cfg.g10, .DASH]).flatten

/-! ### Grid and text -/

/-- R109, R113, R32: a grid of matching shape has `rows` lines of `cols` symbols, the symbol at `(r, c)` is the one at flat
index `r + rows * c`, and reading column by column gives back the flat sequence. -/
def Obligations.GridIsFilledColumnByColumn : Prop :=
  ∀ (symbols : List Glyph) (rows cols : Nat) (g : List (List Glyph)), toGrid symbols rows cols = .ok g →
    g.length = rows ∧ (∀ line ∈ g, line.length = cols)
    ∧ (∀ r k, r < rows → k < cols →
        ∃ x, (g[r]?.bind fun row => row[k]?) = some x ∧ symbols[r + rows * k]? = some x)
    ∧ ∀ i, i < symbols.length → (g[i % rows]?.bind fun row => row[i / rows]?) = symbols[i]?

/-- R115: the corner cases of the shapes. -/
def Obligations.GridCornerCases : Prop :=
  (∀ (symbols : List Glyph) (n : Nat), symbols.length = 24 ∨ symbols.length = 25 →
      toGrid symbols 0 n = .error .shapeMismatch ∧ toGrid symbols n 0 = .error .shapeMismatch)
    ∧ (∀ symbols : List Glyph, symbols.length = 24 → toGrid symbols 5 5 = .error .shapeMismatch)
    ∧ (∀ symbols : List Glyph, symbols.length = 25 → toGrid symbols 4 6 = .error .shapeMismatch)
    ∧ (∀ symbols : List Glyph, symbols.length = 24 → toGrid symbols 1 24 = .ok [symbols])
    ∧ (∀ symbols : List Glyph, symbols.length = 24 → toGrid symbols 24 1 = .ok (symbols.map fun x => [x]))
    ∧ ∀ symbols : List Glyph, symbols.length = 24 →
        ∃ g h : List (List Glyph), toGrid symbols 6 4 = .ok g ∧ toGrid symbols 4 6 = .ok h ∧ g ≠ h

/-- R55, R112: the text of a grid has `rows * cols + rows - 1` bytes: the glyph codes of line `r` from position
`r * (cols + 1)`, a newline after every line but the last; 27 bytes for 4 by 6 and 29 for 5 by 5. -/
def Obligations.TextIsLinesSeparatedByNewlines : Prop :=
  ∀ (symbols : List Glyph) (rows cols : Nat) (g : List (List Glyph)), 0 < rows → toGrid symbols rows cols = .ok g →
    (render g).length = rows * cols + rows - 1
    ∧ (∀ r c, r < rows → c < cols →
        (render g)[r * (cols + 1) + c]? = (symbols[r + rows * c]?).map glyphCode)
    ∧ (∀ r, r + 1 < rows → (render g)[r * (cols + 1) + cols]? = some newlineCode)
    ∧ (rows = 4 → cols = 6 → (render g).length = 27) ∧ (rows = 5 → cols = 5 → (render g).length = 29)

/-! ### Host reads -/

/-- R137: outside DONE every host read of an output or of a stage-output register gives no value. -/
def Obligations.HostReadsNothingOutsideDone : Prop :=
  ∀ s : State, s.stage ≠ 9#4 →
    lenOut s = none ∧ passwordOut s = none ∧ textOut s = none ∧ hostReg s s.m = none ∧ hostReg s s.c1 = none
    ∧ hostReg s s.c2 = none ∧ hostReg s s.rot = none ∧ hostReg s s.emb = none ∧ hostReg s s.mixd = none
    ∧ (∀ i, symAt s i = none ∧ symOut s i = none) ∧ ∀ r c, gridAt s r c = none

/-- R114: the flat sequence and the grid are two views of the same symbols, and the text is the rendering of the grid:
whenever the host gets a password, every single read agrees with it. -/
def Obligations.HostViewsAgree : Prop :=
  ∀ (s : State) (w : EncodedPassword), passwordOut s = some w →
    (∀ i, symAt s i = w.symbols[i]?) ∧ (∀ i, symOut s i = (w.symbols[i]?).map glyphCode)
    ∧ (∀ r k, gridAt s r k = w.grid[r]?.bind fun row => row[k]?) ∧ textOut s = some (render w.grid)

/-- R14, R131: when a call has reached DONE the host reads every intermediate value of the call, and each is the value
ENCODE passes through. That the host reads `R`, `CFG` and `MODE` too is the model's choice, log entry 24. -/
def Obligations.IntermediateValuesAreReadableInDone : Prop :=
  ∀ s : State, Inv s → s.stage = 9#4 →
    ∃ (rec : Rec40) (cfg : VariantConfig) (mode : Mode),
      hostReg s s.r = some rec ∧ hostReg s s.cfg = some cfg ∧ hostReg s s.mode = some mode
      ∧ (let m := maskF Config.params.mask40 rec cfg mode
         hostReg s s.m = some m ∧ hostReg s s.c1 = some (checksum1 m) ∧ hostReg s s.c2 = some (checksum2 m)
          ∧ hostReg s s.rot = some (rotatedOf m) ∧ hostReg s s.emb = some (embeddedOf m)
          ∧ hostReg s s.mixd = some (mixedOf m))

/-! ### The packing contract -/

/-- R74, R47: PACK answers InvalidRecord exactly when some field exceeds its width, and lays every field of any other record
out at its place. -/
def Obligations.PackLaysOutTheFields : Prop :=
  ∀ f : Fields,
    (pack f = .error .invalidRecord ↔ FieldOutOfRange f)
    ∧ (¬ FieldOutOfRange f → ∃ rec : Rec40, pack f = .ok rec
        ∧ (∀ k : Fin 8, (rec.extractLsb' (39 - k.val) 1).toNat = f.boss[k])
        ∧ (rec.extractLsb' 31 1).toNat = f.m
        ∧ (∀ k : Fin 8, (rec.extractLsb' (30 - k.val) 1).toNat = f.item[k])
        ∧ (rec.extractLsb' 20 3).toNat = f.EEE ∧ (rec.extractLsb' 18 2).toNat = f.ee
        ∧ (rec.extractLsb' 15 3).toNat = f.WWW ∧ (rec.extractLsb' 14 1).toNat = f.S
        ∧ (rec.extractLsb' 13 1).toNat = f.B
        ∧ (rec.extractLsb' 3 10).toNat = (f.P % 256) * 4 + f.P / 256
        ∧ (rec.extractLsb' 0 3).toNat = f.LLL)

/-- R48: the stored form of the currency count: its two top bits move to the low end, a rotation left by two of ten bits;
with the three examples. -/
def Obligations.CurrencyFieldIsRotatedByTwo : Prop :=
  (∀ p : Nat, p < 1024 → (pField p).toNat = (p % 256) * 4 + p / 256
      ∧ pField p = (BitVec.ofNat 10 p).rotateLeft 2)
    ∧ pField 1023 = 0x3FF#10 ∧ pField 256 = 0x001#10 ∧ pField 513 = 0x006#10

/-- R47: every 40-bit pattern is a legal record: some fields in range pack to it, and only one. -/
def Obligations.EveryPatternIsALegalRecord : Prop :=
  ∀ rec : Rec40, ∃ f : Fields, pack f = .ok rec ∧ ∀ g : Fields, pack g = .ok rec → g = f

/-- R117, R121: with a PACK front end, fields out of range are recorded in ERR[0] with the block in FAULT and `start` held
low, no data register changed, and no later step without reset records a ShapeMismatch. The integration is the model's
reading of R117 and Program 5, log entry 19. -/
def Obligations.InvalidRecordStopsTheBlockBeforeAnyStage : Prop :=
  ∀ (f : Fields) (v : VariantInput) (mode : BitVec 1) (s : State) (e : Fault), pack f = .error e →
    (s.stage = 0#4 ∨ s.stage = 9#4) → s.err = 0#2 →
    ∃ t, submit f v mode s = some t
      ∧ t = { s with err := 1#2, stage := 15#4, pins := { s.pins with start := false } }
      ∧ ∀ (ps : List Pins), (∀ q ∈ ps, q.rst = false) →
          ∃ u, runPins ps t = .next u ∧ u.err = 1#2 ∧ u.stage = 15#4

/-- R136, R144: fields in range, submitted to a block in IDLE or DONE with the inputs held, give after nine steps (one that
sees `start`, then the eight of the call) the password of their record. The integration is log entry 19. -/
def Obligations.SubmittedFieldsGiveTheirPassword : Prop :=
  ∀ (f : Fields) (v : VariantInput) (mode : BitVec 1) (s : State) (rec : Rec40) (w : EncodedPassword),
    (s.stage = 0#4 ∨ s.stage = 9#4) → s.pins.rst = false → pack f = .ok rec →
    encodeRecord Config.params rec (configInput Config.params v) (modeOfBit mode) = .ok w →
    ∃ t u, submit f v mode s = some t ∧ runPins (List.replicate 9 t.pins) t = .next u ∧ u.stage = 9#4
      ∧ u.err = s.err ∧ passwordOut u = some w
end

