-- ==== Sys2Proof/Laws/Bits.lean ====
section
/-! SUPPORT. One lemma per bit-level function of the data operations, saying bit by bit or as a number what it computes, so
that no proof unfolds it again. -/

namespace Sys2Proof.Machine

/-! ### Groups, slices and concatenation as arithmetic -/

theorem toNat_group {w : Nat} (g : Nat) (v : BitVec w) (i : Nat) :
    (group g v i).toNat = v.toNat / 2 ^ (w - g * (i + 1)) % 2 ^ g := by
  simp [group, Nat.shiftRight_eq_div_pow]

theorem toNat_slice {w : Nat} (v : BitVec w) (s n : Nat) :
    (v.extractLsb' s n).toNat = v.toNat / 2 ^ s % 2 ^ n := by
  rw [BitVec.extractLsb'_toNat, Nat.shiftRight_eq_div_pow]

theorem toNat_concat {a b : Nat} (x : BitVec a) (y : BitVec b) : (x ++ y).toNat = x.toNat * 2 ^ b + y.toNat := by
  rw [BitVec.toNat_append, Nat.shiftLeft_eq, Nat.mul_comm, ← Nat.two_pow_add_eq_or_of_lt y.isLt]

/-- The middle field of a number written as high part, field and low part. -/
theorem field_of_split {x hi e lo s n : Nat} (hx : x = (hi * 2 ^ n + e) * 2 ^ s + lo) (hlo : lo < 2 ^ s)
    (he : e < 2 ^ n) : x / 2 ^ s % 2 ^ n = e := by
  have h : x / 2 ^ s = hi * 2 ^ n + e := by
    rw [hx, Nat.mul_comm, Nat.mul_add_div (by positivity), Nat.div_eq_of_lt hlo, Nat.add_zero]
  rw [h, Nat.mul_comm, Nat.mul_add_mod, Nat.mod_eq_of_lt he]

/-- Two values whose slices agree agree at every bit of the slice. -/
theorem getLsbD_of_slice {a b : Rec40} {s n i : Nat}
    (h : (a.extractLsb' s n).toNat = (b.extractLsb' s n).toNat) (h₁ : s ≤ i) (h₂ : i < s + n) :
    a.getLsbD i = b.getLsbD i := by
  have := congrArg (fun v => BitVec.getLsbD v (i - s)) (BitVec.eq_of_toNat_eq h)
  simp only [BitVec.getLsbD_extractLsb', show i - s < n by omega, decide_true, Bool.true_and,
    show s + (i - s) = i by omega] at this
  exact this

/-- The population count is the number of positions holding a 1. -/
theorem popcount_eq_length (v : Rec40) : popcount v = ((List.range 40).filter fun i => v.getLsbD i).length := by
  unfold popcount
  generalize List.range 40 = l
  induction l with
  | nil => rfl
  | cons a l ih => cases h : v.getLsbD a <;> simp_all; omega

/-! ### The Masker's correction -/

theorem getLsbD_corrected (rec : Rec40) (cfg : VariantConfig) (mode : Mode) {i : Nat} (h : i < 40) :
    (corrected rec cfg mode).getLsbD i
      = (rec.getLsbD i && !(decide (i = 23) && cfg.hclr && decide (mode = .AUTH))) := by
  have bit : ∀ i, i < 40 → (1#40 <<< 23).getLsbD i = decide (i = 23) := by decide
  have cleared : (rec &&& ~~~(1#40 <<< 23)).getLsbD i = (rec.getLsbD i && !(decide (i = 23))) := by
    rw [BitVec.getLsbD_and, BitVec.getLsbD_not, bit i h]
    simp [h]
  unfold corrected hBit
  by_cases hc : cfg.hclr = true <;> by_cases hm : mode = .AUTH <;> simp only [hc, hm]
  · simpa using cleared
  all_goals simp [hm]

/-- Without the flag or in demo mode the record is unchanged. -/
theorem corrected_of_not {cfg : VariantConfig} {mode : Mode} (h : ¬(cfg.hclr = true ∧ mode = .AUTH)) (rec : Rec40) :
    corrected rec cfg mode = rec := by
  unfold corrected
  rw [if_neg (by simpa using h)]

/-! ### Rotations -/

theorem getLsbD_rotateRight (m : Rec40) (a : Check2) {i : Nat} (h : i < 40) :
    (rotateRight m a).getLsbD i = m.getLsbD ((i + a.toNat) % 40) := by
  have ha : a.toNat < 32 := a.isLt
  simp only [rotateRight, BitVec.getLsbD_or, BitVec.getLsbD_ushiftRight, BitVec.getLsbD_shiftLeft, BitVec.getLsbD_and,
    BitVec.getLsbD_ofNat, Nat.testBit_two_pow_sub_one]
  by_cases hi : i + a.toNat < 40
  · have : i < 40 - a.toNat := by omega
    rw [Nat.mod_eq_of_lt hi, Nat.add_comm a.toNat i]
    simp [this]
  · have h₁ : (i + a.toNat) % 40 = i - (40 - a.toNat) := by omega
    have h₂ : ¬ i < 40 - a.toNat := by omega
    have h₃ : m.getLsbD (a.toNat + i) = false := BitVec.getLsbD_of_ge _ _ (by omega)
    have h₄ : i - (40 - a.toNat) < a.toNat := by omega
    have h₅ : i - (40 - a.toNat) < 40 := by omega
    rw [h₁]
    simp [h₂, h₃, h₄, h, h₅]

theorem getLsbD_rotateLeft (x : Rec40) (k : Check2) {i : Nat} (h : i < 40) :
    (rotateLeft x k).getLsbD i = x.getLsbD ((i + (40 - k.toNat)) % 40) := by
  have hk : k.toNat < 32 := k.isLt
  simp only [rotateLeft, BitVec.getLsbD_or, BitVec.getLsbD_ushiftRight, BitVec.getLsbD_shiftLeft]
  by_cases hi : i < k.toNat
  · have h₁ : (i + (40 - k.toNat)) % 40 = 40 - k.toNat + i := by omega
    simp [hi, h₁]
  · have h₁ : (i + (40 - k.toNat)) % 40 = i - k.toNat := by omega
    have h₂ : x.getLsbD (40 - k.toNat + i) = false := BitVec.getLsbD_of_ge _ _ (by omega)
    simp [hi, h₁, h₂, h]

/-! ### Embedding -/

theorem toNat_embedF (rot : Rec40) (c1 : Check1) (c2 : Check2) :
    (embedF rot c1 c2).toNat = rot.toNat * 256 + c1.toNat * 32 + c2.toNat := by
  simp only [embedF, BitVec.toNat_cast, toNat_concat]
  omega

/-! ### Bytes and the mixer's lanes -/

theorem getLsbD_joinBytes (y : Nat → Byte) {j : Nat} (h : j < 48) :
    (joinBytes y).getLsbD j = (y (5 - j / 8)).getLsbD (j % 8) := by
  simp only [joinBytes, BitVec.getLsbD_append, BitVec.getLsbD_cast]
  split_ifs
  · rw [show j / 8 = 0 by omega, show j % 8 = j by omega]
  · rw [show j / 8 = 1 by omega, show j % 8 = j - 8 by omega]
  · rw [show j / 8 = 2 by omega, show j % 8 = j - 8 - 8 by omega]
  · rw [show j / 8 = 3 by omega, show j % 8 = j - 8 - 8 - 8 by omega]
  · rw [show j / 8 = 4 by omega, show j % 8 = j - 8 - 8 - 8 - 8 by omega]
  · rw [show j / 8 = 5 by omega, show j % 8 = j - 8 - 8 - 8 - 8 - 8 by omega]

theorem getLsbD_byteOf (v : Emb48) {i j : Nat} (hi : i < 6) (hj : j < 8) :
    (byteOf v i).getLsbD j = v.getLsbD (40 - 8 * i + j) := by
  simp only [byteOf, group, BitVec.getLsbD_extractLsb', hj, decide_true, Bool.true_and]
  congr 1
  omega

/-- Lane `i` of six joined lanes. -/
theorem byteOf_joinBytes (y : Nat → Byte) {i : Nat} (h : i < 6) : byteOf (joinBytes y) i = y i := by
  apply BitVec.eq_of_getLsbD_eq
  intro j hj
  rw [getLsbD_byteOf _ h hj, getLsbD_joinBytes _ (by omega), show 5 - (40 - 8 * i + j) / 8 = i by omega,
    show (40 - 8 * i + j) % 8 = j by omega]

/-- Joining the lanes of a value gives the value. -/
theorem joinBytes_byteOf (v : Emb48) : joinBytes (byteOf v) = v := by
  apply BitVec.eq_of_getLsbD_eq
  intro j hj
  rw [getLsbD_joinBytes _ hj, getLsbD_byteOf _ (by omega) (by omega)]
  congr 1
  omega

/-- A 48-bit value is determined by its six bytes. -/
theorem ext_byteOf {v w : Emb48} (h : ∀ i, i < 6 → byteOf v i = byteOf w i) : v = w := by
  rw [← joinBytes_byteOf v, ← joinBytes_byteOf w]
  simp only [joinBytes, h 0 (by omega), h 1 (by omega), h 2 (by omega), h 3 (by omega), h 4 (by omega), h 5 (by omega)]

theorem byteOf_mixF (e : Emb48) {i : Nat} (h : i < 6) : byteOf (mixF e) i = byteOf e i + byteOf mixK i :=
  byteOf_joinBytes _ h

theorem byteOf_unmixF (y : Emb48) {i : Nat} (h : i < 6) : byteOf (unmixF y) i = byteOf y i - byteOf mixK i :=
  byteOf_joinBytes _ h

/-! ### Two-bit codes -/

theorem getLsbD_dibitOf (x : Emb48) {j k : Nat} (hj : j < 24) (hk : k < 2) :
    (dibitOf x j).getLsbD k = x.getLsbD (46 - 2 * j + k) := by
  simp only [dibitOf, group, BitVec.getLsbD_extractLsb', hk, decide_true, Bool.true_and]
  congr 1
  omega

/-- The table by the two bits of the code, most-significant first (R102). -/
theorem lut_bits (g : Glyph) (k : Dibit) :
    lut g k = match k.getLsbD 1, k.getLsbD 0 with
      | false, false => .R
      | false, true => .E
      | true, false => g
      | true, true => .DASH := by
  have : k = 0#2 ∨ k = 1#2 ∨ k = 2#2 ∨ k = 3#2 := by revert k; decide
  rcases this with rfl | rfl | rfl | rfl <;> rfl

end Sys2Proof.Machine
end

