-- ==== Sys2Proof/Laws/State.lean ====
section
/-! SUPPORT. One lemma per field of State for each shared update (setStage, raise, applyReset, drive, withFetchWord), and the
laws of a register, so that no proof unfolds a record update. -/

namespace Sys2Proof.Machine

variable {α : Type}

@[simp] theorem Reg.write_val (v : α) : (Reg.write v).val = v := rfl
@[simp] theorem Reg.write_held (v : α) : (Reg.write v).held = true := rfl
@[simp] theorem Reg.lose_val (v : α) : (Reg.lose v).val = v := rfl
@[simp] theorem Reg.lose_held (v : α) : (Reg.lose v).held = false := rfl
@[simp] theorem Reg.unset_val (v : α) : (Reg.unset v).val = v := rfl
@[simp] theorem Reg.unset_held (v : α) : (Reg.unset v).held = false := rfl
@[simp] theorem Reg.drop_val (r : Reg α) : r.drop.val = r.val := rfl
@[simp] theorem Reg.drop_held (r : Reg α) : r.drop.held = false := rfl
@[simp] theorem Reg.get_eq_val (r : Reg α) : r.get = r.val := rfl

/-- A host read gives the register's value exactly when it holds one. -/
theorem Reg.host?_eq_some_iff (r : Reg α) (v : α) : r.host? = some v ↔ r.held = true ∧ r.val = v := by
  unfold Reg.host?
  split <;> simp_all

@[simp] theorem setStage_r (n : StageCode) (s : State) : (setStage n s).r = s.r := rfl
@[simp] theorem setStage_cfg (n : StageCode) (s : State) : (setStage n s).cfg = s.cfg := rfl
@[simp] theorem setStage_mode (n : StageCode) (s : State) : (setStage n s).mode = s.mode := rfl
@[simp] theorem setStage_m (n : StageCode) (s : State) : (setStage n s).m = s.m := rfl
@[simp] theorem setStage_c1 (n : StageCode) (s : State) : (setStage n s).c1 = s.c1 := rfl
@[simp] theorem setStage_c2 (n : StageCode) (s : State) : (setStage n s).c2 = s.c2 := rfl
@[simp] theorem setStage_rot (n : StageCode) (s : State) : (setStage n s).rot = s.rot := rfl
@[simp] theorem setStage_emb (n : StageCode) (s : State) : (setStage n s).emb = s.emb := rfl
@[simp] theorem setStage_mixd (n : StageCode) (s : State) : (setStage n s).mixd = s.mixd := rfl
@[simp] theorem setStage_sym (n : StageCode) (s : State) : (setStage n s).sym = s.sym := rfl
@[simp] theorem setStage_len (n : StageCode) (s : State) : (setStage n s).len = s.len := rfl
@[simp] theorem setStage_stage (n : StageCode) (s : State) : (setStage n s).stage = n := rfl
@[simp] theorem setStage_err (n : StageCode) (s : State) : (setStage n s).err = s.err := rfl
@[simp] theorem setStage_pins (n : StageCode) (s : State) : (setStage n s).pins = s.pins := rfl
@[simp] theorem setStage_lost (n : StageCode) (s : State) : (setStage n s).lost = s.lost := rfl

@[simp] theorem raise_r (f : Fault) (s : State) : (raise f s).r = s.r := rfl
@[simp] theorem raise_cfg (f : Fault) (s : State) : (raise f s).cfg = s.cfg := rfl
@[simp] theorem raise_mode (f : Fault) (s : State) : (raise f s).mode = s.mode := rfl
@[simp] theorem raise_m (f : Fault) (s : State) : (raise f s).m = s.m := rfl
@[simp] theorem raise_c1 (f : Fault) (s : State) : (raise f s).c1 = s.c1 := rfl
@[simp] theorem raise_c2 (f : Fault) (s : State) : (raise f s).c2 = s.c2 := rfl
@[simp] theorem raise_rot (f : Fault) (s : State) : (raise f s).rot = s.rot := rfl
@[simp] theorem raise_emb (f : Fault) (s : State) : (raise f s).emb = s.emb := rfl
@[simp] theorem raise_mixd (f : Fault) (s : State) : (raise f s).mixd = s.mixd := rfl
@[simp] theorem raise_sym (f : Fault) (s : State) : (raise f s).sym = s.sym := rfl
@[simp] theorem raise_len (f : Fault) (s : State) : (raise f s).len = s.len := rfl
@[simp] theorem raise_stage (f : Fault) (s : State) : (raise f s).stage = 15#4 := rfl
@[simp] theorem raise_err (f : Fault) (s : State) : (raise f s).err = s.err ||| errBit f := rfl
@[simp] theorem raise_pins (f : Fault) (s : State) : (raise f s).pins = s.pins := rfl
@[simp] theorem raise_lost (f : Fault) (s : State) : (raise f s).lost = s.lost := rfl

@[simp] theorem drive_r (p : Pins) (s : State) : (drive p s).r = s.r := rfl
@[simp] theorem drive_cfg (p : Pins) (s : State) : (drive p s).cfg = s.cfg := rfl
@[simp] theorem drive_mode (p : Pins) (s : State) : (drive p s).mode = s.mode := rfl
@[simp] theorem drive_m (p : Pins) (s : State) : (drive p s).m = s.m := rfl
@[simp] theorem drive_c1 (p : Pins) (s : State) : (drive p s).c1 = s.c1 := rfl
@[simp] theorem drive_c2 (p : Pins) (s : State) : (drive p s).c2 = s.c2 := rfl
@[simp] theorem drive_rot (p : Pins) (s : State) : (drive p s).rot = s.rot := rfl
@[simp] theorem drive_emb (p : Pins) (s : State) : (drive p s).emb = s.emb := rfl
@[simp] theorem drive_mixd (p : Pins) (s : State) : (drive p s).mixd = s.mixd := rfl
@[simp] theorem drive_sym (p : Pins) (s : State) : (drive p s).sym = s.sym := rfl
@[simp] theorem drive_len (p : Pins) (s : State) : (drive p s).len = s.len := rfl
@[simp] theorem drive_stage (p : Pins) (s : State) : (drive p s).stage = s.stage := rfl
@[simp] theorem drive_err (p : Pins) (s : State) : (drive p s).err = s.err := rfl
@[simp] theorem drive_pins (p : Pins) (s : State) : (drive p s).pins = p := rfl
@[simp] theorem drive_lost (p : Pins) (s : State) : (drive p s).lost = s.lost := rfl

@[simp] theorem applyReset_r (s : State) : (applyReset s).r = State.reset.r := rfl
@[simp] theorem applyReset_cfg (s : State) : (applyReset s).cfg = State.reset.cfg := rfl
@[simp] theorem applyReset_mode (s : State) : (applyReset s).mode = State.reset.mode := rfl
@[simp] theorem applyReset_m (s : State) : (applyReset s).m = State.reset.m := rfl
@[simp] theorem applyReset_c1 (s : State) : (applyReset s).c1 = State.reset.c1 := rfl
@[simp] theorem applyReset_c2 (s : State) : (applyReset s).c2 = State.reset.c2 := rfl
@[simp] theorem applyReset_rot (s : State) : (applyReset s).rot = State.reset.rot := rfl
@[simp] theorem applyReset_emb (s : State) : (applyReset s).emb = State.reset.emb := rfl
@[simp] theorem applyReset_mixd (s : State) : (applyReset s).mixd = State.reset.mixd := rfl
@[simp] theorem applyReset_sym (s : State) : (applyReset s).sym = State.reset.sym := rfl
@[simp] theorem applyReset_len (s : State) : (applyReset s).len = State.reset.len := rfl
@[simp] theorem applyReset_stage (s : State) : (applyReset s).stage = State.reset.stage := rfl
@[simp] theorem applyReset_err (s : State) : (applyReset s).err = State.reset.err := rfl
@[simp] theorem applyReset_pins (s : State) : (applyReset s).pins = s.pins := rfl
@[simp] theorem applyReset_lost (s : State) : (applyReset s).lost = s.lost := rfl

@[simp] theorem State.withFetchWord_r (s : State) (k w : Nat) : (s.withFetchWord k w).r = s.r := rfl
@[simp] theorem State.withFetchWord_cfg (s : State) (k w : Nat) : (s.withFetchWord k w).cfg = s.cfg := rfl
@[simp] theorem State.withFetchWord_mode (s : State) (k w : Nat) : (s.withFetchWord k w).mode = s.mode := rfl
@[simp] theorem State.withFetchWord_m (s : State) (k w : Nat) : (s.withFetchWord k w).m = s.m := rfl
@[simp] theorem State.withFetchWord_c1 (s : State) (k w : Nat) : (s.withFetchWord k w).c1 = s.c1 := rfl
@[simp] theorem State.withFetchWord_c2 (s : State) (k w : Nat) : (s.withFetchWord k w).c2 = s.c2 := rfl
@[simp] theorem State.withFetchWord_rot (s : State) (k w : Nat) : (s.withFetchWord k w).rot = s.rot := rfl
@[simp] theorem State.withFetchWord_emb (s : State) (k w : Nat) : (s.withFetchWord k w).emb = s.emb := rfl
@[simp] theorem State.withFetchWord_mixd (s : State) (k w : Nat) : (s.withFetchWord k w).mixd = s.mixd := rfl
@[simp] theorem State.withFetchWord_sym (s : State) (k w : Nat) : (s.withFetchWord k w).sym = s.sym := rfl
@[simp] theorem State.withFetchWord_len (s : State) (k w : Nat) : (s.withFetchWord k w).len = s.len := rfl
@[simp] theorem State.withFetchWord_stage (s : State) (k w : Nat) : (s.withFetchWord k w).stage = BitVec.ofNat 4 (w % 2 ^ k) := rfl
@[simp] theorem State.withFetchWord_err (s : State) (k w : Nat) : (s.withFetchWord k w).err = s.err := rfl
@[simp] theorem State.withFetchWord_pins (s : State) (k w : Nat) : (s.withFetchWord k w).pins = { s.pins with rst := false } := rfl
@[simp] theorem State.withFetchWord_lost (s : State) (k w : Nat) : (s.withFetchWord k w).lost = s.lost := rfl

/-- Driving twice leaves the last levels. -/
@[simp] theorem drive_drive (p q : Pins) (s : State) : drive q (drive p s) = drive q s := rfl

/-- Driving the levels that are there changes nothing. -/
@[simp] theorem drive_pins_self (s : State) : drive s.pins s = s := rfl

end Sys2Proof.Machine
end

