-- ==== Sys2Proof/Laws/Host.lean ====
section
/-! SUPPORT. What the host's reads give in DONE. -/

namespace Sys2Proof.Machine

variable {α : Type}

theorem hostReg_done {s : State} (h : s.stage = 9#4) (r : Reg α) : hostReg s r = r.host? := by
  simp [hostReg, h]

theorem hostReg_not_done {s : State} (h : s.stage ≠ 9#4) (r : Reg α) : hostReg s r = none := by
  simp [hostReg, h]

theorem Reg.host?_of_held {r : Reg α} (h : r.held = true) : r.host? = some r.val := by
  simp [Reg.host?, h]

/-- A list read entry by entry is read as a whole, and the other way round. -/
theorem mapM_eq_some_iff {f : Nat → Option α} {l : List Nat} {g : List α} :
    l.mapM f = some g ↔ l.map f = g.map some := by
  induction l generalizing g with
  | nil => cases g <;> simp
  | cons a l ih =>
    cases g with
    | nil => cases ha : f a <;> cases hl : l.mapM f <;> simp [List.mapM_cons, ha, hl]
    | cons b g =>
      simp only [List.map_cons, List.cons.injEq, ← ih]
      cases ha : f a <;> cases hl : l.mapM f <;> simp [List.mapM_cons, ha, hl]

/-- In DONE, entries that hold the symbols `g` are read as `g`. -/
theorem symbolsOut_eq {s : State} {g : List Glyph} (h9 : s.stage = 9#4) (hh : s.len.held = true)
    (hl : s.len.val.toNat = g.length) (hg : g.length ≤ 25)
    (hs : ∀ i : Fin 25, i.val < g.length → s.sym[i].held = true ∧ g[i.val]? = some s.sym[i].val) :
    symbolsOut s = some g := by
  have hlen : lenOut s = some s.len.val := by rw [lenOut, hostReg_done h9, Reg.host?_of_held hh]
  simp only [symbolsOut, hlen, mapM_eq_some_iff, hl]
  apply List.ext_getElem?
  intro i
  by_cases hi : i < g.length
  · have hi25 : i < 25 := by omega
    obtain ⟨h₁, h₂⟩ := hs ⟨i, hi25⟩ hi
    simp only [Fin.getElem_fin] at h₁ h₂
    simp only [List.getElem?_map, List.getElem?_range hi, Option.map_some, h₂, symAt, hlen, hl, hi, if_true]
    simp [hi25, hostReg_done h9, Reg.host?_of_held h₁]
  · simp [hi]

theorem passwordOut_eq {s : State} {g : List Glyph} (h9 : s.stage = 9#4) (hs : symbolsOut s = some g)
    (hc : s.cfg.held = true) (hsh : shapeOk s = true) :
    passwordOut s = some ⟨g, gridRows g s.cfg.val.rows s.cfg.val.cols⟩ := by
  simp [passwordOut, hs, hostReg_done h9, Reg.host?_of_held hc, hsh]

end Sys2Proof.Machine
end

