-- ==== Sys2Proof/Laws/Pack.lean ====
section
/-! SUPPORT. PACK: the range check as a proposition, and the assembled record as a number. -/

namespace Sys2Proof.Machine

theorem fieldsInRange_iff (f : Fields) :
    fieldsInRange f = true ↔ (∀ k : Fin 8, f.boss[k] ≤ 1) ∧ f.m ≤ 1 ∧ (∀ k : Fin 8, f.item[k] ≤ 1) ∧ f.EEE ≤ 7
      ∧ f.ee ≤ 3 ∧ f.WWW ≤ 7 ∧ f.S ≤ 1 ∧ f.B ≤ 1 ∧ f.P ≤ 1023 ∧ f.LLL ≤ 7 := by
  have key : ∀ v : Vector Nat 8, v.toList.all (· ≤ 1) = true ↔ ∀ k : Fin 8, v[k] ≤ 1 := by
    intro v
    rw [List.all_eq_true]
    constructor
    · intro h k
      simpa using h v[k] (by simp)
    · intro h x hx
      obtain ⟨i, hi, rfl⟩ := List.getElem_of_mem hx
      simp only [Vector.length_toList] at hi
      simpa using h ⟨i, hi⟩
  simp only [fieldsInRange, Bool.and_eq_true, decide_eq_true_eq, key, and_assoc]

/-- The stored form of an in-range count as a number (R48). -/
theorem toNat_pField {p : Nat} (h : p < 1024) : (pField p).toNat = (p % 256) * 4 + p / 256 := by
  simp only [pField, BitVec.toNat_cast, toNat_concat, toNat_slice, BitVec.toNat_ofNat]
  omega

theorem toNat_flagBits (v : Vector Nat 8) (h : ∀ k : Fin 8, v[k] ≤ 1) :
    (flagBits v).toNat
      = v[0] * 128 + v[1] * 64 + v[2] * 32 + v[3] * 16 + v[4] * 8 + v[5] * 4 + v[6] * 2 + v[7] := by
  have h0 : v[0] ≤ 1 := h 0
  have h1 : v[1] ≤ 1 := h 1
  have h2 : v[2] ≤ 1 := h 2
  have h3 : v[3] ≤ 1 := h 3
  have h4 : v[4] ≤ 1 := h 4
  have h5 : v[5] ≤ 1 := h 5
  have h6 : v[6] ≤ 1 := h 6
  have h7 : v[7] ≤ 1 := h 7
  simp only [flagBits, BitVec.toNat_cast, toNat_concat, BitVec.toNat_ofNat]
  omega

/-- The assembled record of in-range fields as a number: each field at its place (R47). -/
theorem toNat_assemble {f : Fields} (h : fieldsInRange f = true) :
    (assemble f).toNat
      = (flagBits f.boss).toNat * 2 ^ 32 + f.m * 2 ^ 31 + (flagBits f.item).toNat * 2 ^ 23 + f.EEE * 2 ^ 20
        + f.ee * 2 ^ 18 + f.WWW * 2 ^ 15 + f.S * 2 ^ 14 + f.B * 2 ^ 13 + ((f.P % 256) * 4 + f.P / 256) * 2 ^ 3
        + f.LLL := by
  obtain ⟨-, h1, -, h2, h3, h4, h5, h6, h7, h8⟩ := (fieldsInRange_iff f).1 h
  simp only [assemble, BitVec.toNat_cast, toNat_concat, BitVec.toNat_ofNat, toNat_pField (show f.P < 1024 by omega)]
  omega

theorem pack_eq_ok_iff {f : Fields} {rec : Rec40} : pack f = .ok rec ↔ fieldsInRange f = true ∧ assemble f = rec := by
  cases h : fieldsInRange f <;> simp [pack, h]

theorem pack_eq_error {f : Fields} {e : Fault} (h : pack f = .error e) : e = .invalidRecord := by
  unfold pack at h
  split at h <;> simp_all

end Sys2Proof.Machine
end

