-- ==== Sys2Proof/Laws/PerInstr.lean ====
section
/-! SUPPORT. Statements made per stage operation, one lemma a constructor. -/

namespace Sys2Proof.Laws.StageCodes

/-- The operation is well formed, its code is one the opcode map assigns (0 to 9, or 15; R56), and the code decodes to the
operation itself. -/
def Statement (i : Instr) : Prop :=
  i.wellFormed = true ∧ ((encode i).toNat ≤ 9 ∨ encode i = 15#4) ∧ decode (encode i) = .ok i

theorem idle : Statement .idle := by simp [Statement, Instr.wellFormed, encode, decode]
theorem load : Statement .load := by simp [Statement, Instr.wellFormed, encode, decode]
theorem mask : Statement .mask := by simp [Statement, Instr.wellFormed, encode, decode]
theorem csum : Statement .csum := by simp [Statement, Instr.wellFormed, encode, decode]
theorem rotr : Statement .rotr := by simp [Statement, Instr.wellFormed, encode, decode]
theorem embed : Statement .embed := by simp [Statement, Instr.wellFormed, encode, decode]
theorem mix : Statement .mix := by simp [Statement, Instr.wellFormed, encode, decode]
theorem symenc : Statement .symenc := by simp [Statement, Instr.wellFormed, encode, decode]
theorem grid : Statement .grid := by simp [Statement, Instr.wellFormed, encode, decode]
theorem done : Statement .done := by simp [Statement, Instr.wellFormed, encode, decode]
theorem fault : Statement .fault := by simp [Statement, Instr.wellFormed, encode, decode]

end Sys2Proof.Laws.StageCodes
end

