-- ==== Sys2Proof/Laws/Step.lean ====
section
/-! SUPPORT. What a step can do, said once: the cases of the stage code, the step in each, and the inversion of a step that
has a next state. -/

namespace Sys2Proof.Machine

/-- Every operation, for case splits that `decide` runs. -/
def allInstr : List Instr := [.idle, .load, .mask, .csum, .rotr, .embed, .mix, .symenc, .grid, .done, .fault]

theorem mem_allInstr (i : Instr) : i ∈ allInstr := by cases i <;> simp [allInstr]

theorem decode_eq_ok_iff (c : StageCode) (i : Instr) : decode c = .ok i ↔ encode i = c := by
  have h : ∀ c : StageCode, ∀ i ∈ allInstr, (decode c = .ok i ↔ encode i = c) := by decide
  exact h c i (mem_allInstr i)

/-- A stage code is an operation's or reserved. -/
theorem stage_cases (c : StageCode) : (∃ i, c = encode i) ∨ (10 ≤ c.toNat ∧ c.toNat ≤ 14) := by
  have h : ∀ c : StageCode, (∃ i ∈ allInstr, c = encode i) ∨ (10 ≤ c.toNat ∧ c.toNat ≤ 14) := by decide
  exact (h c).imp (fun ⟨i, _, hi⟩ => ⟨i, hi⟩) id

theorem decode_reserved {c : StageCode} (h₁ : 10 ≤ c.toNat) (h₂ : c.toNat ≤ 14) :
    decode c = .error (.reserved c) := by
  revert c
  decide

theorem step_of_rst {s : State} (h : s.pins.rst = true) : step s = .next (applyReset s) := by
  simp [step, h]

theorem step_of_stage {s : State} {i : Instr} (h : s.pins.rst = false) (hi : s.stage = encode i) :
    step s = exec i s := by
  simp [step, h, fetch, (decode_eq_ok_iff _ _).2 hi.symm]

theorem step_of_reserved {s : State} (h : s.pins.rst = false) (h₁ : 10 ≤ s.stage.toNat) (h₂ : s.stage.toNat ≤ 14) :
    step s = .refused (.reservedStage s.stage) := by
  simp [step, h, fetch, decode_reserved h₁ h₂]

/-- Everything a step with a next state can be: reset, or the operation of the stage code. -/
theorem step_cases {s t : State} (h : step s = .next t) :
    (s.pins.rst = true ∧ t = applyReset s)
      ∨ (s.pins.rst = false ∧ ∃ i, s.stage = encode i ∧ exec i s = .next t) := by
  cases hr : s.pins.rst
  · rcases stage_cases s.stage with ⟨i, hi⟩ | ⟨h₁, h₂⟩
    · exact .inr ⟨rfl, i, hi, by rw [← step_of_stage hr hi]; exact h⟩
    · rw [step_of_reserved hr h₁ h₂] at h
      cases h
  · rw [step_of_rst hr] at h
    cases h
    exact .inl ⟨rfl, rfl⟩

/-- Every operation has a next state, in every state. -/
theorem exec_next (i : Instr) (s : State) : ∃ t, exec i s = .next t := by
  cases i <;> exact ⟨_, rfl⟩

/-- GRID by its shape check. -/
theorem exec_grid_eq (s : State) :
    exec .grid s = .next (if shapeOk s then setStage 9#4 s else raise .shapeMismatch s) := rfl

/-- Whatever an operation does to ERR is the fault entry of GRID. -/
theorem exec_err {i : Instr} {s t : State} (h : exec i s = .next t) :
    t.err = s.err ∨ (i = .grid ∧ shapeOk s = false ∧ t = raise .shapeMismatch s) := by
  cases i
  case grid =>
    cases hs : shapeOk s <;> simp [exec_grid_eq, hs] at h <;> subst h
    · exact .inr ⟨rfl, rfl, rfl⟩
    · exact .inl rfl
  all_goals (cases h; left; simp [loadEffect, maskEffect, symencEffect])

/-- No operation moves the inputs. -/
theorem exec_pins {i : Instr} {s t : State} (h : exec i s = .next t) : t.pins = s.pins := by
  cases i
  case grid => cases hs : shapeOk s <;> simp [exec_grid_eq, hs] at h <;> subst h <;> rfl
  all_goals (cases h; simp [loadEffect, maskEffect, symencEffect])

theorem applyReset_noValues (s : State) : NoValues (applyReset s) := by
  simp [NoValues, NoStageOutputs, State.reset]

end Sys2Proof.Machine
end

