-- ==== Sys2Proof/Laws/Symbols.lean ====
section
/-! SUPPORT. The symbol sequence, the symbol buffer after SYMENC, the grid of a sequence, and the whole call by its shape
check. -/

namespace Sys2Proof.Machine

/-! ### The sequence -/

theorem symbolsF_length (p : Params) (x : Emb48) (cfg : VariantConfig) (mode : Mode) :
    (symbolsF p x cfg mode).length = cfg.passwordLength := by
  simp only [symbolsF, VariantConfig.passwordLength]
  cases cfg.trailer <;> simp

theorem symbolsF_take (p : Params) (x : Emb48) (cfg : VariantConfig) (mode : Mode) :
    (symbolsF p x cfg mode).take 24 = (List.range 24).map fun j => lut cfg.g10 (dibitOf x j) := by
  rw [symbolsF, List.take_append_of_le_length (by simp), List.take_of_length_le (by simp)]

theorem symbolsF_getElem?_lt (p : Params) (x : Emb48) (cfg : VariantConfig) (mode : Mode) {j : Nat} (h : j < 24) :
    (symbolsF p x cfg mode)[j]? = some (lut cfg.g10 (dibitOf x j)) := by
  rw [symbolsF, List.getElem?_append_left (by simpa using h)]
  simp [h]

theorem symbolsF_getElem?_24 (p : Params) (x : Emb48) (cfg : VariantConfig) (mode : Mode) :
    (symbolsF p x cfg mode)[24]? = if cfg.trailer then some (trailerGlyph p mode) else none := by
  rw [symbolsF, List.getElem?_append_right (by simp)]
  cases cfg.trailer <;> simp

theorem passwordLength_le (c : VariantConfig) : c.passwordLength ≤ 25 := by
  unfold VariantConfig.passwordLength
  cases c.trailer <;> simp

/-- `LEN` holds the length: 24 and 25 fit 5 bits. -/
theorem toNat_passwordLength (c : VariantConfig) : (BitVec.ofNat 5 c.passwordLength).toNat = c.passwordLength := by
  unfold VariantConfig.passwordLength
  cases c.trailer <;> rfl

/-! ### The buffer -/

theorem writeSymbols_held (g : List Glyph) (sym : Vector (Reg Glyph) 25) (i : Fin 25) :
    (writeSymbols g sym)[i].held = decide (i.val < g.length) := by
  simp only [writeSymbols, Fin.getElem_fin, Vector.getElem_ofFn]
  by_cases h : i.val < g.length
  · rw [List.getElem?_eq_getElem h]
    simp [h]
  · rw [List.getElem?_eq_none (by omega)]
    simp [h]

theorem writeSymbols_val (g : List Glyph) (sym : Vector (Reg Glyph) 25) (i : Fin 25) (h : i.val < g.length) :
    g[i.val]? = some (writeSymbols g sym)[i].val := by
  simp only [writeSymbols, Fin.getElem_fin, Vector.getElem_ofFn]
  rw [List.getElem?_eq_getElem h]
  simp

/-! ### The grid of a sequence -/

/-- With a matching shape no grid index falls outside the sequence (R32). -/
theorem gridIndex_lt {n rows cols r c : Nat} (hs : rows * cols = n) (hr : r < rows) (hc : c < cols) :
    gridIndex rows r c < n := by
  rw [← hs, gridIndex]
  calc r + rows * c < rows + rows * c := by omega
    _ = rows * (c + 1) := by ring
    _ ≤ rows * cols := Nat.mul_le_mul_left _ hc

/-- With a matching shape a row drops nothing. -/
theorem gridRow_map_some {symbols : List Glyph} {rows cols r : Nat} (hs : rows * cols = symbols.length)
    (hr : r < rows) :
    (gridRow symbols rows cols r).map some = (List.range cols).map fun c => symbols[gridIndex rows r c]? := by
  have key : ∀ l : List Nat, (∀ c ∈ l, c < cols) →
      ((l.filterMap fun c => symbols[gridIndex rows r c]?).map some = l.map fun c => symbols[gridIndex rows r c]?) := by
    intro l
    induction l with
    | nil => simp
    | cons a l ih =>
      intro h
      have ha := gridIndex_lt hs hr (h a (by simp))
      simp only [List.filterMap_cons, List.getElem?_eq_getElem ha, List.map_cons]
      rw [ih fun c hc => h c (by simp [hc])]
  exact key _ fun c hc => List.mem_range.1 hc

theorem gridRow_length {symbols : List Glyph} {rows cols r : Nat} (hs : rows * cols = symbols.length) (hr : r < rows) :
    (gridRow symbols rows cols r).length = cols := by
  simpa using congrArg List.length (gridRow_map_some hs hr)

theorem gridRow_getElem? {symbols : List Glyph} {rows cols r c : Nat} (hs : rows * cols = symbols.length)
    (hr : r < rows) (hc : c < cols) : (gridRow symbols rows cols r)[c]? = symbols[gridIndex rows r c]? := by
  have := congrArg (fun l => l[c]?) (gridRow_map_some hs hr)
  simp [hc] at this
  cases h : (gridRow symbols rows cols r)[c]? <;> simp_all

/-- One entry of the grid, at any coordinates (R109). -/
theorem gridRows_getElem? {symbols : List Glyph} {rows cols r : Nat} (c : Nat) (hs : rows * cols = symbols.length) :
    ((gridRows symbols rows cols)[r]?.bind fun row => row[c]?)
      = if r < rows ∧ c < cols then symbols[gridIndex rows r c]? else none := by
  by_cases hr : r < rows
  · simp only [gridRows, List.getElem?_map, List.getElem?_range hr, Option.map_some, Option.bind_some]
    by_cases hc : c < cols
    · simp [hr, hc, gridRow_getElem? hs hr hc]
    · rw [List.getElem?_eq_none (by rw [gridRow_length hs hr]; omega)]
      simp [hc]
  · rw [List.getElem?_eq_none (by simp [gridRows]; omega)]
    simp [hr]

/-- When `to_grid` succeeds, the shape matches and the grid is the grid view. -/
theorem toGrid_eq_ok {symbols : List Glyph} {rows cols : Nat} {g : List (List Glyph)}
    (h : toGrid symbols rows cols = .ok g) : rows * cols = symbols.length ∧ g = gridRows symbols rows cols := by
  unfold toGrid at h
  split at h
  · cases h
    exact ⟨‹_›, rfl⟩
  · cases h

/-- The whole call by its shape check: all else in it is total (R71, R119). -/
theorem encodeRecord_eq (p : Params) (rec : Rec40) (cfg : VariantConfig) (mode : Mode) :
    encodeRecord p rec cfg mode
      = if cfg.shapeMatches then
          .ok ⟨passwordOf p rec cfg mode, gridRows (passwordOf p rec cfg mode) cfg.rows cfg.cols⟩
        else .error .shapeMismatch := by
  have hl : (passwordOf p rec cfg mode).length = cfg.passwordLength := symbolsF_length _ _ _ _
  unfold encodeRecord toGrid VariantConfig.shapeMatches
  rw [hl]
  by_cases h : cfg.rows * cfg.cols = cfg.passwordLength <;> simp [h]

end Sys2Proof.Machine
end

