-- ==== Sys2Proof/Tests/Slice0.lean ====
section
/-! SUPPORT. Tests of the model against the vectors of spec 95_test_vectors.md (the section is named at each test), the
smoke tests of the checks, and a witness for every statement that has hypotheses. No expected value is the model's own. -/

open Sys2Proof Sys2Proof.Machine

namespace Sys2Proof.Tests

/-! ### Parameters, configurations and states of the tests -/

/-- Illustrative parameters with a given mask (spec 95: neither test mask is the real one). -/
def params (mask : Rec40) : Params := ⟨mask, .B, .VAR25, .other 0x41#8, .other 0x44#8⟩

/-- The mask `T1`. -/
def t1 : Rec40 := 0xA5C3F0961E#40

/-- `{hclr false, g10 B, trailer false, rows 4, cols 6}` (programs 1 and 3). -/
def cfg24 : VariantConfig := ⟨false, .B, false, 4, 6⟩

/-- `{hclr true, g10 T, trailer true, rows 5, cols 5}` (program 2). -/
def cfg25 : VariantConfig := ⟨true, .T, true, 5, 5⟩

/-- `{hclr false, g10 B, trailer false, rows 5, cols 5}`, ill formed (program 4). -/
def cfgBad : VariantConfig := ⟨false, .B, false, 5, 5⟩

/-- The reset state with another stage code. -/
def at_ (n : StageCode) : State := setStage n State.reset

/-- The same with `rst` applied. -/
def rstAt (n : StageCode) : State := drive { State.reset.pins with rst := true } (at_ n)

/-- The same with `start` high. -/
def startAt (n : StageCode) : State := drive { State.reset.pins with start := true } (at_ n)

/-- A state at GRID with a configuration and a length. -/
def gridState (c : VariantConfig) (n : BitVec 5) : State := { at_ 8#4 with cfg := .write c, len := .write n }

/-- The inputs of a call of record `rec` with configuration `c`. -/
def callPins (rec : Rec40) (c : VariantConfig) : Pins := ⟨false, false, rec, .record c, 0#1⟩

/-- Letters as symbols (spec 95 section 2.7). -/
def letters (n : Nat) : List Glyph := (List.range n).map fun i => .other (BitVec.ofNat 8 (0x41 + i))

/-- The glyphs of a text of the alphabet. -/
def glyphs (t : String) : List Glyph :=
  t.toList.map fun c => if c = 'R' then .R else if c = 'E' then .E else if c = 'B' then .B else if c = 'T' then .T else .DASH

/-- Fields all zero. -/
def zeroFields : Fields := ⟨Vector.replicate 8 0, 0, Vector.replicate 8 0, 0, 0, 0, 0, 0, 0, 0⟩

/-- Every field at its maximum. -/
def maxFields : Fields := ⟨Vector.replicate 8 1, 1, Vector.replicate 8 1, 7, 3, 7, 1, 1, 1023, 7⟩

/-! ### The checks refuse ill-formed terms (R47, R51, R74) -/

theorem test_config_accepts : cfg24.wellFormed = true ∧ cfg25.wellFormed = true := by decide
theorem test_config_refuses_ten_glyph : ({ cfg24 with g10 := .R } : VariantConfig).wellFormed = false := by decide
theorem test_config_refuses_shape :
    cfgBad.wellFormed = false ∧ ({ cfg25 with rows := 4, cols := 6 } : VariantConfig).wellFormed = false := by decide
theorem test_instr_wellFormed : ∀ i ∈ allInstr, i.wellFormed = true := by decide
theorem test_fields_accepts : fieldsInRange zeroFields = true ∧ fieldsInRange maxFields = true := by decide
theorem test_fields_refuses_flags :
    fieldsInRange { zeroFields with boss := zeroFields.boss.set 7 2 } = false
      ∧ fieldsInRange { zeroFields with item := zeroFields.item.set 0 2 } = false
      ∧ fieldsInRange { zeroFields with m := 2 } = false ∧ fieldsInRange { zeroFields with S := 2 } = false
      ∧ fieldsInRange { zeroFields with B := 2 } = false := by decide
theorem test_fields_refuses_counts :
    fieldsInRange { zeroFields with EEE := 8 } = false ∧ fieldsInRange { zeroFields with ee := 4 } = false
      ∧ fieldsInRange { zeroFields with WWW := 8 } = false ∧ fieldsInRange { zeroFields with P := 1024 } = false
      ∧ fieldsInRange { zeroFields with LLL := 8 } = false := by decide

/-! ### Decoding: the codes written out from the table of R56 -/

theorem test_decode_idle : decode 0b0000#4 = .ok .idle := by decide
theorem test_decode_load : decode 0b0001#4 = .ok .load := by decide
theorem test_decode_mask : decode 0b0010#4 = .ok .mask := by decide
theorem test_decode_csum : decode 0b0011#4 = .ok .csum := by decide
theorem test_decode_rotr : decode 0b0100#4 = .ok .rotr := by decide
theorem test_decode_embed : decode 0b0101#4 = .ok .embed := by decide
theorem test_decode_mix : decode 0b0110#4 = .ok .mix := by decide
theorem test_decode_symenc : decode 0b0111#4 = .ok .symenc := by decide
theorem test_decode_grid : decode 0b1000#4 = .ok .grid := by decide
theorem test_decode_done : decode 0b1001#4 = .ok .done := by decide
theorem test_decode_fault : decode 0b1111#4 = .ok .fault := by decide
theorem test_decode_reserved :
    decode 0b1010#4 = .error (.reserved 10#4) ∧ decode 0b1011#4 = .error (.reserved 11#4)
      ∧ decode 0b1100#4 = .error (.reserved 12#4) ∧ decode 0b1101#4 = .error (.reserved 13#4)
      ∧ decode 0b1110#4 = .error (.reserved 14#4) := by decide
theorem test_decodeTableWord :
    decodeTableWord 8 2 = some .mask ∧ decodeTableWord 4 15 = some .fault ∧ decodeTableWord 8 12 = none
      ∧ decodeTableWord 8 0x12 = none := by decide
theorem test_withFetchWord_runs_grid : step (State.reset.withFetchWord 8 8) = exec .grid (at_ 8#4) := rfl
theorem test_withFetchWord_runs_fault : step ((rstAt 5#4).withFetchWord 8 15) = exec .fault (at_ 15#4) := rfl

/-! ### Sequencer (spec 95 section 2.10) -/

theorem test_idle_waits : step (at_ 0#4) = .next (at_ 0#4) := rfl
theorem test_idle_starts : step (startAt 0#4) = .next (startAt 1#4) := rfl
theorem test_load_latches :
    (loadEffect (params t1) (drive (callPins 0xFFFFFFFFFF#40 cfg24) (at_ 1#4))).r = .write 0xFFFFFFFFFF#40
      ∧ (loadEffect (params t1) (drive (callPins 0xFFFFFFFFFF#40 cfg24) (at_ 1#4))).m.held = false := ⟨rfl, rfl⟩
theorem test_load_table_and_mode :
    (loadEffect (params t1) (drive ⟨false, true, 0#40, .index 1#1, 1#1⟩ (at_ 1#4))).cfg = .write cfg25
      ∧ (loadEffect (params t1) (drive ⟨false, true, 0#40, .index 1#1, 1#1⟩ (at_ 1#4))).mode = .write .DEMO :=
  ⟨rfl, rfl⟩
theorem test_done_waits : step (at_ 9#4) = .next (at_ 9#4) := rfl
theorem test_done_starts : step (startAt 9#4) = .next (startAt 1#4) := rfl
theorem test_fault_stays : step (startAt 15#4) = .next (startAt 15#4) := rfl
theorem test_mix_ignores_start : ∃ t, step (startAt 6#4) = .next t ∧ t.stage = 7#4 := ⟨_, rfl, rfl⟩
theorem test_reset_from_stage_5 : ∃ t, step (rstAt 5#4) = .next t ∧ t.stage = 0#4 ∧ t.err = 0#2 := ⟨_, rfl, rfl, rfl⟩
theorem test_reserved_has_no_step : step (startAt 12#4) = .refused (.reservedStage 12#4) := rfl

/-! ### MASK (section 2.1) -/

theorem test_mask_correction :
    maskF t1 0xFFFFFFFFFF#40 cfg25 .AUTH = 0x5A3C8F69E1#40 ∧ maskF t1 0xFFFFFFFFFF#40 cfg25 .DEMO = 0x5A3C0F69E1#40
      ∧ maskF t1 0xFF7FFFFFFF#40 cfg25 .AUTH = 0x5ABC8F69E1#40 ∧ maskF 0#40 0#40 cfg25 .AUTH = 0#40
      ∧ maskF 0#40 0x0000800000#40 cfg25 .AUTH = 0#40 := by decide
theorem test_mask_plain :
    maskF t1 0xFFFFFFFFFF#40 cfg24 .AUTH = 0x5A3C0F69E1#40 ∧ maskF 0#40 0x0000800000#40 cfg24 .AUTH = 0x0000800000#40
      ∧ maskF 0xFFFFFFFFFF#40 0x0123456789#40 cfg24 .AUTH = 0xFEDCBA9876#40 ∧ maskF t1 t1 cfg24 .AUTH = 0#40 := by decide

/-! ### CSUM (section 2.2) -/

theorem test_csum :
    checksum1 0x5A3C0F69E1#40 = 4#3 ∧ checksum2 0x5A3C0F69E1#40 = 11#5 ∧ checksum1 0x0000000FF2#40 = 1#3
      ∧ checksum2 0x0000000FF2#40 = 0#5 ∧ checksum1 0xFFFFFFFFFF#40 = 0#3 ∧ checksum2 0xFFFFFFFFFF#40 = 22#5 := by decide
theorem test_csum_weights :
    checksum2 0x8000000000#40 = 8#5 ∧ checksum2 0x8888888888#40 = 16#5 ∧ checksum2 0xF0F0F0F0F0#40 = 11#5
      ∧ checksum1 0x00000000FE#40 = 7#3 ∧ checksum1 0x4444444444#40 = 2#3 := by decide

/-! ### ROTR (section 2.3) -/

theorem test_rotr :
    rotateRight 0x0123456789#40 4#5 = 0x9012345678#40 ∧ rotateRight 0x0123456789#40 13#5 = 0x3C48091A2B#40
      ∧ rotateRight 0x0123456789#40 31#5 = 0x468ACF1202#40 ∧ rotateRight 0x0123456789#40 0#5 = 0x0123456789#40 := by decide
theorem test_rotr_wraps_at_40 :
    rotateRight 0x8000000001#40 1#5 = 0xC000000000#40 ∧ rotateRight 0x5A3C8F69E1#40 19#5 = 0xED3C2B4791#40
      ∧ rotateLeft 0x3C2B4781ED#40 11#5 = 0x5A3C0F69E1#40 := by decide

/-! ### EMBED (section 2.4) -/

theorem test_embed :
    embedF 0#40 1#3 0#5 = 0x20#48 ∧ embedF 0#40 0#3 1#5 = 1#48 ∧ embedF 0x0123456789#40 5#3 3#5 = 0x0123456789A3#48
      ∧ embedF 0xED3C2B4791#40 5#3 19#5 = 0xED3C2B4791B3#48 := by decide

/-! ### MIX (section 2.5) -/

theorem test_mix :
    mixF 0x0000000000FF#48 = 0x123456789ABB#48 ∧ mixF 0xFF0000000000#48 = 0x113456789ABC#48
      ∧ mixF 0x808080808080#48 = 0x92B4D6F81A3C#48 ∧ mixF 0x3C2B4781ED8B#48 = 0x4E5F9DF98747#48 := by decide
theorem test_unmix : unmixF 0x4E5F9DF98747#48 = 0x3C2B4781ED8B#48 := by decide

/-! ### SYMENC (section 2.6) -/

theorem test_symenc_24 :
    symbolsF (params 0#40) 0x123456789ABC#48 cfg24 .AUTH = glyphs "RERBR-EREEEBE-BRBEBBB--R" := by decide
theorem test_symenc_25 :
    symbolsF (params 0#40) 0xFF7081BF2B6F#48 cfg25 .DEMO = glyphs "----E-RRTRRET---RTT-ET--" ++ [.other 0x44#8]
      ∧ (symencEffect (params 0#40) { at_ 7#4 with cfg := .write cfg25 }).len = .write 25#5
      ∧ (symencEffect (params 0#40) { at_ 7#4 with cfg := .write cfg24 }).sym[24].held = false := by decide

/-! ### GRID, RENDER and PACK (sections 2.7 and 2.8) -/

theorem test_grid_letters :
    toGrid (letters 24) 6 4 = .ok ((List.range 6).map fun r => (List.range 4).map fun c => .other (BitVec.ofNat 8 (0x41 + (r + 6 * c))))
      ∧ (toGrid (letters 25) 5 5).toOption.bind (·[4]?)
          = some [.other 0x45#8, .other 0x4A#8, .other 0x4F#8, .other 0x54#8, .other 0x59#8] := by decide
theorem test_grid_faults : toGrid (letters 24) 5 5 = .error .shapeMismatch ∧ toGrid (letters 25) 4 6 = .error .shapeMismatch := by
  decide
theorem test_render :
    render (gridRows (glyphs "ER-BEE--BE-E--BEBRE-ERE-") 4 6)
      = [0x45#8, 0x45#8, 0x42#8, 0x2D#8, 0x42#8, 0x45#8, 0x0A#8, 0x52#8, 0x45#8, 0x45#8, 0x2D#8, 0x52#8, 0x52#8, 0x0A#8,
          0x2D#8, 0x2D#8, 0x2D#8, 0x42#8, 0x45#8, 0x45#8, 0x0A#8, 0x42#8, 0x2D#8, 0x45#8, 0x45#8, 0x2D#8, 0x2D#8] := by decide
theorem test_pack_example :
    pack ⟨Vector.replicate 8 1, 1, #v[1, 0, 1, 1, 0, 0, 1, 1], 4, 2, 5, 1, 0, 777, 3⟩ = .ok 0xFFD9CAC13B#40
      ∧ pack maxFields = .ok 0xFFFFFFFFFF#40 ∧ pack { zeroFields with P := 513 } = .ok 0x0000000030#40 := by decide
theorem test_pack_places :
    pack { zeroFields with boss := zeroFields.boss.set 0 1 } = .ok 0x8000000000#40
      ∧ pack { zeroFields with item := zeroFields.item.set 7 1 } = .ok 0x0000800000#40
      ∧ pack { zeroFields with P := 1024 } = .error .invalidRecord := by decide

/-! ### Whole calls (section 3) -/

theorem test_program_1 :
    encodeRecord (params t1) 0xFFFFFFFFFF#40 cfg24 .AUTH
      = .ok ⟨glyphs "ER-BEE--BE-E--BEBRE-ERE-",
          [glyphs "EEB-BE", glyphs "REE-RR", glyphs "---BEE", glyphs "B-EE--"]⟩ := by decide
theorem test_program_2_auth :
    encodeRecord (params t1) 0xFFD9CAC13B#40 cfg25 .AUTH
      = .ok ⟨glyphs "ETTRT-TTRRERRR-EETR-R--T" ++ [.other 0x41#8],
          [glyphs "E-EER", glyphs "TTRE-", glyphs "TTRT-", glyphs "RRRRT", glyphs "TR--" ++ [.other 0x41#8]]⟩ := by decide
theorem test_program_2_demo :
    encodeRecord (params t1) 0xFFD9CAC13B#40 cfg25 .DEMO
      = .ok ⟨glyphs "TTRR-RTERE---R-TRTRRR-ET" ++ [.other 0x44#8],
          [glyphs "TR-TR", glyphs "TT-R-", glyphs "RE-TE", glyphs "RRRRT", glyphs "-E-R" ++ [.other 0x44#8]]⟩ := by decide
theorem test_program_3_second_call :
    encodeRecord (params 0#40) 0x0000000FF2#40 cfg24 .AUTH
      = .ok ⟨glyphs "RERBR-EREEEBBRE-BR-R-E-R",
          [glyphs "RREBB-", glyphs "E-ERRE", glyphs "REEE--", glyphs "BRB-RR"]⟩ := by decide
theorem test_program_4 : encodeRecord (params 0#40) 0x0123456789#40 cfgBad .AUTH = .error .shapeMismatch := by decide
theorem test_program_4_registers :
    (symencEffect (params 0#40) { at_ 7#4 with mixd := .write 0x4E7C5F92C5A9#48, cfg := .write cfgBad }).len = .write 24#5
      ∧ (symencEffect (params 0#40) { at_ 7#4 with mixd := .write 0x4E7C5F92C5A9#48, cfg := .write cfgBad }).sym[23]
          = .write .E := by decide
theorem test_program_4_grid : ∃ t, step (gridState cfgBad 24#5) = .next t ∧ t.err = 0b10#2 ∧ t.stage = 15#4 ∧ t.len = .write 24#5 :=
  ⟨_, rfl, rfl, rfl, rfl⟩

/-! ### Witnesses: states and operands that meet the hypotheses of each statement -/

theorem witness_ResetFromAnyStateAndOnlyResetRecovers :
    (rstAt 15#4).pins.rst = true ∧ (rstAt 12#4).pins.rst = true
      ∧ ∃ t, (raise .shapeMismatch (at_ 8#4)).pins.rst = false ∧ step (raise .shapeMismatch (at_ 8#4)) = .next t
        ∧ (raise .shapeMismatch (at_ 8#4)).stage = 15#4 ∧ (raise .shapeMismatch (at_ 8#4)).err.getLsbD 1 = true :=
  ⟨rfl, rfl, _, rfl, rfl, rfl, rfl⟩

theorem witness_StepRunsTheSelectedOperation :
    (at_ 0#4).pins.rst = false ∧ decode (at_ 0#4).stage = .ok .idle ∧ decode (at_ 15#4).stage = .ok .fault := by decide

theorem witness_ReservedStageCodesHaveNoStep :
    (at_ 10#4).pins.rst = false ∧ 10 ≤ (at_ 10#4).stage.toNat ∧ (at_ 14#4).stage.toNat ≤ 14
      ∧ ∃ t, step (at_ 9#4) = .next t := ⟨rfl, by decide, by decide, _, rfl⟩

theorem witness_OpcodeMapDecodes : ∃ c d : StageCode, c.toNat = 10 ∧ d.toNat = 14 := ⟨10#4, 14#4, by decide⟩

theorem witness_DecodeAndEncodeAgree : decode 0b1111#4 = .ok .fault ∧ decode 0b0000#4 = .ok .idle := by decide

theorem witness_IdleWaitsForStart :
    (at_ 0#4).stage = 0#4 ∧ (at_ 0#4).pins.rst = false ∧ (at_ 0#4).pins.start = false := by decide

theorem witness_DoneKeepsResultsUntilStart :
    (at_ 9#4).stage = 9#4 ∧ (at_ 9#4).pins.rst = false ∧ (at_ 9#4).pins.start = false := by decide

theorem witness_FaultStateStaysUntilReset :
    (startAt 15#4).stage = 15#4 ∧ (startAt 15#4).pins.rst = false ∧ (rstAt 15#4).stage = 15#4
      ∧ (rstAt 15#4).pins.rst = true := by decide

theorem witness_MaskWritesTheMaskedRecord : cfg24.hclr = false := rfl

theorem witness_MixAddsTheConstantByteByByte :
    mixBytes[0]? = some 0x12 ∧ mixBytes[5]? = some 0xBC ∧ mixBytes[6]? = none := by decide

theorem witness_SymencMapsTheTwoBitCodes :
    cfg24.g10 = .B ∧ cfg24.trailer = false ∧ cfg25.trailer = true ∧ (23 : Fin 25).val < 24 := by decide

theorem witness_GridChecksTheShape :
    (gridState cfg24 24#5).cfg.val.rows * (gridState cfg24 24#5).cfg.val.cols = (gridState cfg24 24#5).len.val.toNat
      ∧ (gridState cfg24 25#5).cfg.val.rows * (gridState cfg24 25#5).cfg.val.cols
          ≠ (gridState cfg24 25#5).len.val.toNat := by decide

theorem witness_ErrChangesOnlyByFaultEntryOrReset :
    (gridState cfgBad 24#5).pins.rst = false ∧ (∃ t, step (gridState cfgBad 24#5) = .next t)
      ∧ (rstAt 15#4).pins.rst = true ∧ ∃ t, step (rstAt 15#4) = .next t := ⟨rfl, ⟨_, rfl⟩, rfl, _, rfl⟩

theorem witness_DataOperationsAdvanceTheStage :
    (at_ 2#4).pins.rst = false ∧ 2 ≤ (at_ 2#4).stage.toNat ∧ (at_ 7#4).stage.toNat ≤ 7
      ∧ (gridState cfg25 25#5).cfg.val.rows * (gridState cfg25 25#5).cfg.val.cols = (gridState cfg25 25#5).len.val.toNat
      ∧ (gridState cfg25 24#5).cfg.val.rows * (gridState cfg25 24#5).cfg.val.cols
          ≠ (gridState cfg25 24#5).len.val.toNat := by decide

theorem witness_OnlyTheListedStageTransfers :
    (∃ t, step (rstAt 3#4) = .next t) ∧ (∃ t, step (startAt 0#4) = .next t) ∧ (∃ t, step (at_ 0#4) = .next t)
      ∧ (∃ t, step (startAt 9#4) = .next t) ∧ (∃ t, step (at_ 9#4) = .next t) ∧ (∃ t, step (at_ 1#4) = .next t)
      ∧ (∃ t, step (gridState cfg24 24#5) = .next t) ∧ (∃ t, step (gridState cfgBad 24#5) = .next t)
      ∧ ∃ t, step (at_ 15#4) = .next t :=
  ⟨⟨_, rfl⟩, ⟨_, rfl⟩, ⟨_, rfl⟩, ⟨_, rfl⟩, ⟨_, rfl⟩, ⟨_, rfl⟩, ⟨_, rfl⟩, ⟨_, rfl⟩, _, rfl⟩

theorem witness_EachRegisterHasOneWriter :
    (at_ 2#4).pins.rst = false ∧ (at_ 7#4).stage ≠ 1#4 ∧ (at_ 7#4).stage ≠ 8#4 ∧ (∃ t, step (at_ 2#4) = .next t)
      ∧ ∃ t, step (at_ 7#4) = .next t := ⟨rfl, by decide, by decide, ⟨_, rfl⟩, _, rfl⟩

theorem witness_InputsAreSampledOnlyWhereStated :
    (at_ 2#4).pins.rst = false ∧ (callPins 1#40 cfg25).rst = false ∧ LegalStage (at_ 2#4) ∧ (at_ 2#4).stage ≠ 1#4
      ∧ (callPins 1#40 cfg25).recI ≠ (at_ 2#4).pins.recI ∧ LegalStage (at_ 1#4)
      ∧ (startAt 1#4).pins.recI = (at_ 1#4).pins.recI ∧ (startAt 1#4).pins.variantI = (at_ 1#4).pins.variantI
      ∧ (startAt 1#4).pins.modeI = (at_ 1#4).pins.modeI ∧ (startAt 1#4).pins.start ≠ (at_ 1#4).pins.start
      ∧ LegalStage (at_ 9#4) ∧ (callPins 1#40 cfg25).start = (at_ 9#4).pins.start := by
  simp only [LegalStage]
  decide

/-- The registers of a finished call of program 1 under the open parameters. -/
def calledAt (c : VariantConfig) (n : StageCode) (e : ErrFlags) : State :=
  let m := maskF Config.params.mask40 0xFFFFFFFFFF#40 c .AUTH
  { State.reset with
    r := .write 0xFFFFFFFFFF#40
    cfg := .write c
    mode := .write .AUTH
    m := .write m
    c1 := .write (checksum1 m)
    c2 := .write (checksum2 m)
    rot := .write (rotatedOf m)
    emb := .write (embeddedOf m)
    mixd := .write (mixedOf m)
    sym := writeSymbols (symbolsF Config.params (mixedOf m) c .AUTH) State.reset.sym
    len := .write (BitVec.ofNat 5 c.passwordLength)
    stage := n
    err := e }

theorem calledAt_afterOp (c : VariantConfig) (n : StageCode) (e : ErrFlags)
    (h : n = 9#4 ∧ e = 0#2 ∨ n = 15#4 ∧ e = 2#2) (k : Nat) (hk : k < 9) : afterOp k (calledAt c n e) = true := by
  rcases h with ⟨rfl, rfl⟩ | ⟨rfl, rfl⟩ <;> simp [afterOp, calledAt, hk]

theorem calledAt_held (c : VariantConfig) (n : StageCode) (e : ErrFlags) (h : n = 9#4 ∧ e = 0#2 ∨ n = 15#4 ∧ e = 2#2) :
    HeldInv (calledAt c n e) := by
  have ha := calledAt_afterOp c n e h
  unfold HeldInv
  rw [ha 1 (by decide), ha 2 (by decide), ha 3 (by decide), ha 4 (by decide), ha 5 (by decide), ha 6 (by decide),
    ha 7 (by decide)]
  refine ⟨rfl, rfl, rfl, rfl, rfl, rfl, rfl, rfl, rfl, rfl, fun i => ?_⟩
  simp only [calledAt, writeSymbols_held, symbolsF_length, Bool.true_and, Reg.write_val]
  rfl

theorem calledAt_values (c : VariantConfig) (n : StageCode) (e : ErrFlags)
    (h9 : n = 9#4 → c.shapeMatches = true) (h15 : n = 15#4 → c.shapeMatches = false) :
    ValueInv Config.params (calledAt c n e) := by
  refine ⟨fun _ => rfl, fun _ => ⟨rfl, rfl⟩, fun _ => rfl, fun _ => rfl, fun _ => rfl, fun _ => ⟨rfl, fun i hi => ?_⟩, h9,
    fun h _ => h15 h⟩
  apply writeSymbols_val
  rw [symbolsF_length]
  exact hi

theorem witness_Inv_done : Inv (calledAt cfg24 9#4 0#2) ∧ (calledAt cfg24 9#4 0#2).stage = 9#4 :=
  ⟨⟨.inl (by decide), rfl,
    fun _ => ⟨calledAt_held _ _ _ (.inl ⟨rfl, rfl⟩), calledAt_values _ _ _ (by decide) (by decide)⟩⟩, rfl⟩

theorem witness_Inv_fault : Inv (calledAt cfgBad 15#4 2#2) ∧ (calledAt cfgBad 15#4 2#2).stage = 15#4 :=
  ⟨⟨.inr rfl, .inr rfl,
    fun _ => ⟨calledAt_held _ _ _ (.inr ⟨rfl, rfl⟩), calledAt_values _ _ _ (by decide) (by decide)⟩⟩, rfl⟩

theorem witness_EveryStepKeepsTheInvariant :
    Inv (calledAt cfg24 9#4 0#2) ∧ step (calledAt cfg24 9#4 0#2) = .next (calledAt cfg24 9#4 0#2) :=
  ⟨witness_Inv_done.1, rfl⟩

theorem witness_HostActionsKeepTheInvariant :
    Inv (calledAt cfg24 9#4 0#2) ∧ (∃ t, submit zeroFields (.index 0#1) 0#1 (calledAt cfg24 9#4 0#2) = some t)
      ∧ ∃ t, submit { zeroFields with P := 1024 } (.index 0#1) 0#1 (calledAt cfg24 9#4 0#2) = some t ∧ t.stage = 15#4 :=
  ⟨witness_Inv_done.1, ⟨_, rfl⟩, _, rfl, rfl⟩

theorem witness_DoneShowsTheEncodedPassword : Inv (calledAt cfg24 9#4 0#2) ∧ (calledAt cfg24 9#4 0#2).stage = 9#4 :=
  witness_Inv_done

theorem witness_IntermediateValuesAreReadableInDone :
    Inv (calledAt cfg24 9#4 0#2) ∧ (calledAt cfg24 9#4 0#2).stage = 9#4 := witness_Inv_done

/-- Seven steps' inputs with `start` and other data moving, without reset. -/
def laterPins : List Pins := List.replicate 7 ⟨false, true, 1#40, .index 1#1, 1#1⟩

theorem laterPins_ok : laterPins.length = 7 ∧ ∀ q ∈ laterPins, q.rst = false := by decide

theorem witness_CallComputesEncodeInEightSteps :
    (at_ 1#4).stage = 1#4 ∧ (callPins 5#40 cfg24).rst = false ∧ laterPins.length = 7 ∧ (∀ q ∈ laterPins, q.rst = false)
      ∧ (∃ w, encodeRecord Config.params 5#40 (configInput Config.params (callPins 5#40 cfg24).variantI) .AUTH = .ok w)
      ∧ (∃ w, encodeRecord Config.params 5#40 (configInput Config.params (.index 1#1)) .AUTH = .ok w)
      ∧ ∃ f, encodeRecord Config.params 5#40 (configInput Config.params (callPins 5#40 cfgBad).variantI) .AUTH
          = .error f :=
  ⟨rfl, rfl, laterPins_ok.1, laterPins_ok.2, ⟨_, encodeRecord_eq _ _ _ _⟩, ⟨_, encodeRecord_eq _ _ _ _⟩, _,
    encodeRecord_eq _ _ _ _⟩

theorem witness_StagesFollowInFixedOrder :
    (at_ 1#4).stage = 1#4 ∧ laterPins.length ≤ 7 ∧ ([] : List Pins).length ≤ 7 ∧ ∀ q ∈ laterPins, q.rst = false :=
  ⟨rfl, by decide, by decide, laterPins_ok.2⟩

theorem witness_CallsDoNotDependOnHistory :
    (at_ 1#4).stage = 1#4 ∧ (calledAt cfg24 1#4 0#2).stage = 1#4 ∧ laterPins.length = 7
      ∧ (List.replicate 7 (callPins 5#40 cfg24)).length = 7 ∧ (callPins 5#40 cfg24).rst = false
      ∧ (∀ q ∈ laterPins, q.rst = false) ∧ (∀ q ∈ List.replicate 7 (callPins 5#40 cfg24), q.rst = false)
      ∧ cfg24.wellFormed = true ∧ cfg25.wellFormed = true :=
  ⟨rfl, rfl, rfl, rfl, rfl, laterPins_ok.2, by decide, rfl, rfl⟩

theorem witness_EncodeFailsExactlyOnShapeMismatch :
    cfgBad.rows * cfgBad.cols ≠ (if cfgBad.trailer then 25 else 24)
      ∧ cfg25.rows * cfg25.cols = (if cfg25.trailer then 25 else 24) := by decide

theorem witness_PasswordDeterminesTheCorrectedRecord :
    cfg25.wellFormed = true ∧ cfg25.hclr = true
      ∧ encodeRecord (params t1) 0xFFFF7FFFFF#40 cfg25 .AUTH = encodeRecord (params t1) 0xFFFFFFFFFF#40 cfg25 .AUTH
      ∧ encodeRecord (params t1) 5#40 cfg25 .DEMO = encodeRecord (params t1) 5#40 cfg25 .DEMO := by decide

theorem witness_CorrectionForcesBitHToZero : cfg25.hclr = true ∧ cfg24.hclr = false ∧ (22 : Nat) ≠ 23 := by decide

theorem witness_MaskIsAnInvolutionUpToBitH :
    t1.getLsbD 23 = true ∧ (0#40).getLsbD 23 = false ∧ ¬(cfg24.hclr = true ∧ Mode.AUTH = .AUTH)
      ∧ ¬(cfg25.hclr = true ∧ Mode.DEMO = .AUTH) ∧ cfg25.hclr = true := by decide

theorem witness_RotateByZeroAndCornerCases :
    nibbleSum 0x0000000FF2#40 = 32 ∧ nibbleSum 0x00000FFFF4#40 = 64
      ∧ nibbleSum 0x000FFFFFF6#40 = 96 ∧ nibbleSum 0x0FFFFFFFF8#40 = 128 := by decide

theorem witness_BitIndices : ∃ i j : Nat, i < 40 ∧ i = 0 ∧ j < 40 ∧ j = 39 := ⟨0, 39, by decide⟩

theorem witness_RotrRotatesRightByChecksum2 : ∃ i j : Nat, i < 40 ∧ i = 0 ∧ j < 40 ∧ j = 39 := witness_BitIndices

theorem witness_RotateRightMovesLowBitsToTheTop : ∃ i j : Nat, i < 40 ∧ i = 0 ∧ j < 40 ∧ j = 39 := witness_BitIndices

theorem witness_RotateLeftUndoesRotateRight : ∃ i j : Nat, i < 40 ∧ i = 0 ∧ j < 40 ∧ j = 39 := witness_BitIndices

theorem witness_GroupsNestMostSignificantFirst :
    ∃ i j k : Nat, i < 6 ∧ i = 5 ∧ j < 5 ∧ j = 4 ∧ k < 4 ∧ k = 3 := ⟨5, 4, 3, by decide⟩

theorem witness_Checksum2TwelveGroupsOrTen :
    bitCount 0x00000000FF#40 = 8 ∧ bitCount 0x8000007FFF#40 = 16 ∧ bitCount 0xFFFFFF0000#40 = 24
      ∧ bitCount 0xFF00FFFFFF#40 = 32 ∧ bitCount 0x000000007F#40 = 7 ∧ (9 : Nat) < 10 := by decide

/-- Lane 5 of `FF` overflows and lane 1 of 0 does not. -/
theorem witness_MixLanesDoNotCarry :
    ¬ (byteOf 0x0000000000FF#48 5).toNat + (byteOf mixK 5).toNat < 256
      ∧ (byteOf 0x0000000000FF#48 1).toNat + (byteOf mixK 1).toNat < 256 := by decide

theorem witness_SymbolsDetermineTheMixedValue :
    cfg24.g10 = .B ∧ cfg25.g10 = .T
      ∧ (symbolsF (params t1) 7#48 cfg25 .AUTH).take 24 = (symbolsF (params 0#40) 7#48 cfg25 .DEMO).take 24 := by decide

theorem witness_GridIsFilledColumnByColumn :
    (∃ g, toGrid (letters 24) 4 6 = .ok g) ∧ (∃ g, toGrid (letters 25) 5 5 = .ok g) ∧ ∃ g, toGrid [] 0 0 = .ok g :=
  ⟨⟨_, rfl⟩, ⟨_, rfl⟩, _, rfl⟩

theorem witness_GridCornerCases : (letters 24).length = 24 ∧ (letters 25).length = 25 := by decide

theorem witness_TextIsLinesSeparatedByNewlines :
    (∃ g, 0 < 4 ∧ toGrid (letters 24) 4 6 = .ok g) ∧ ∃ g, 0 < 5 ∧ toGrid (letters 25) 5 5 = .ok g :=
  ⟨⟨_, by decide, rfl⟩, _, by decide, rfl⟩

theorem witness_HostReadsNothingOutsideDone : (calledAt cfgBad 15#4 2#2).stage ≠ 9#4 ∧ (at_ 8#4).stage ≠ 9#4 := by
  exact ⟨by decide, by decide⟩

/-- A finished call whose symbols are concrete, for the host's reads. -/
def readable : State :=
  { gridState cfg24 24#5 with
    sym := writeSymbols (glyphs "ER-BEE--BE-E--BEBRE-ERE-") State.reset.sym
    stage := 9#4 }

theorem witness_HostViewsAgree :
    passwordOut readable = some ⟨glyphs "ER-BEE--BE-E--BEBRE-ERE-",
      [glyphs "EEB-BE", glyphs "REE-RR", glyphs "---BEE", glyphs "B-EE--"]⟩
      ∧ gridAt readable 3 0 = some .B ∧ gridAt readable 4 0 = none ∧ symOut readable 24 = none := by decide

theorem witness_PackLaysOutTheFields :
    FieldOutOfRange { zeroFields with P := 1024 } ∧ FieldOutOfRange { zeroFields with boss := zeroFields.boss.set 7 2 }
      ∧ ¬ FieldOutOfRange { zeroFields with P := 1023 } ∧ ¬ FieldOutOfRange maxFields := by
  unfold FieldOutOfRange
  decide

theorem witness_CurrencyFieldIsRotatedByTwo : (1023 : Nat) < 1024 ∧ (0 : Nat) < 1024 := by decide

theorem witness_EveryPatternIsALegalRecord : pack zeroFields = .ok 0#40 ∧ pack maxFields = .ok 0xFFFFFFFFFF#40 := by decide

theorem witness_InvalidRecordStopsTheBlockBeforeAnyStage :
    pack { zeroFields with P := 1024 } = .error .invalidRecord ∧ (at_ 0#4).stage = 0#4 ∧ (at_ 9#4).stage = 9#4
      ∧ (at_ 9#4).err = 0#2 ∧ ∀ q ∈ laterPins, q.rst = false := by decide

theorem witness_SubmittedFieldsGiveTheirPassword :
    (at_ 0#4).stage = 0#4 ∧ (at_ 9#4).stage = 9#4 ∧ (at_ 9#4).pins.rst = false ∧ pack maxFields = .ok 0xFFFFFFFFFF#40
      ∧ ∃ w, encodeRecord Config.params 0xFFFFFFFFFF#40 (configInput Config.params (.record cfg24)) (modeOfBit 0#1)
          = .ok w :=
  ⟨rfl, rfl, rfl, by decide, _, encodeRecord_eq _ _ _ _⟩

end Sys2Proof.Tests
end

section
/-! PROOFS. The state family (10_state.md): reset, the status outputs, ERR, the writers of the registers, and the
invariant with its step lemma. -/

namespace Sys2Proof.Machine

/-! ### What an operation does to the state -/

theorem shapeOk_eq_false_iff (s : State) :
    shapeOk s = false ↔ s.cfg.val.rows * s.cfg.val.cols ≠ s.len.val.toNat := by
  simp [shapeOk]

theorem setStage_self {n : StageCode} {s : State} (h : s.stage = n) : setStage n s = s := by
  subst h
  rfl

/-- GRID inverted: the end of the call, or the fault entry of a mismatched shape. -/
theorem exec_grid_cases {s t : State} (h : exec .grid s = .next t) :
    (shapeOk s = true ∧ t = setStage 9#4 s) ∨ (shapeOk s = false ∧ t = raise .shapeMismatch s) := by
  rw [exec_grid_eq] at h
  cases h
  cases hs : shapeOk s
  · exact .inr ⟨rfl, rfl⟩
  · exact .inl ⟨rfl, rfl⟩

/-- IDLE and DONE inverted, at their own stage: on to LOAD, or nothing at all. -/
theorem exec_wait_cases {i : Instr} {s t : State} (hi : i = .idle ∨ i = .done) (hs : s.stage = encode i)
    (h : exec i s = .next t) : t = setStage 1#4 s ∨ t = s := by
  rcases hi with rfl | rfl <;>
    (cases h; cases s.pins.start; exacts [.inr (setStage_self hs), .inl rfl])

/-- FAULT at its own stage does nothing at all (R69). -/
theorem exec_fault_self {s t : State} (hs : s.stage = encode .fault) (h : exec .fault s = .next t) : t = s := by
  cases h
  exact setStage_self hs

/-- FAULT is entered by GRID and kept by FAULT; every other end of an operation has a code up to 9 and leaves ERR. -/
theorem exec_fault_cases {i : Instr} {s t : State} (h : exec i s = .next t) :
    (i = .fault ∧ t.stage = 15#4) ∨ (i = .grid ∧ t = raise .shapeMismatch s)
      ∨ (i ≠ .fault ∧ t.stage.toNat ≤ 9 ∧ t.err = s.err) := by
  cases i
  case fault => cases h; exact .inl ⟨rfl, rfl⟩
  case grid =>
    rcases exec_grid_cases h with ⟨-, rfl⟩ | ⟨-, rfl⟩
    · exact .inr (.inr (by simp))
    · exact .inr (.inl ⟨rfl, rfl⟩)
  case idle => cases h; cases s.pins.start <;> simp
  case done => cases h; cases s.pins.start <;> simp
  all_goals (cases h; simp [loadEffect, maskEffect, symencEffect])

/-- The writers of R13's table: an operation but LOAD leaves every data register that is not its own. -/
theorem exec_frame {i : Instr} {s t : State} (h : exec i s = .next t) (hl : i ≠ .load) :
    t.r = s.r ∧ t.cfg = s.cfg ∧ t.mode = s.mode
      ∧ (i ≠ .mask → t.m = s.m) ∧ (i ≠ .csum → t.c1 = s.c1 ∧ t.c2 = s.c2) ∧ (i ≠ .rotr → t.rot = s.rot)
      ∧ (i ≠ .embed → t.emb = s.emb) ∧ (i ≠ .mix → t.mixd = s.mixd)
      ∧ (i ≠ .symenc → t.sym = s.sym ∧ t.len = s.len) := by
  cases i
  case load => exact absurd rfl hl
  case grid => rcases exec_grid_cases h with ⟨-, rfl⟩ | ⟨-, rfl⟩ <;> simp
  all_goals (cases h; simp [maskEffect, symencEffect])

/-- No two operations share a stage code (R56). -/
theorem stage_eq_encode_iff {s : State} {i j : Instr} (hi : s.stage = encode i) : s.stage = encode j ↔ i = j := by
  refine ⟨fun hj => ?_, fun hij => hij ▸ hi⟩
  have hd : decode s.stage = .ok i := (decode_eq_ok_iff _ _).2 hi.symm
  rw [(decode_eq_ok_iff _ j).2 hj.symm] at hd
  cases hd
  rfl

/-- A step without reset is the operation of its stage code. -/
theorem exec_of_step {s t : State} (hr : s.pins.rst = false) (h : step s = .next t) :
    ∃ i, s.stage = encode i ∧ exec i s = .next t := by
  rcases step_cases h with ⟨hr', -⟩ | ⟨-, hi⟩
  · simp [hr] at hr'
  · exact hi

/-- No step moves the inputs. -/
theorem step_pins {s t : State} (h : step s = .next t) : t.pins = s.pins := by
  rcases step_cases h with ⟨-, rfl⟩ | ⟨-, i, -, he⟩
  · rfl
  · exact exec_pins he

/-! ### The parts of the invariant -/

theorem LegalStage.of_exec {i : Instr} {s t : State} (h : exec i s = .next t) : LegalStage t := by
  rcases exec_fault_cases h with ⟨-, ht⟩ | ⟨-, rfl⟩ | ⟨-, ht, -⟩
  · exact .inr ht
  · exact .inr rfl
  · exact .inl ht

theorem errInv_of_ne {s : State} (h : s.stage ≠ 15#4) : ErrInv s ↔ s.err = 0#2 := by
  simp [ErrInv, h]

theorem ErrInv.of_exec {i : Instr} {s t : State} (he : ErrInv s) (hi : s.stage = encode i) (h : exec i s = .next t) :
    ErrInv t := by
  have hs : i ≠ .fault → s.err = 0#2 := fun hf =>
    (errInv_of_ne (mt (stage_eq_encode_iff (j := .fault) hi).1 hf)).1 he
  rcases exec_fault_cases h with ⟨rfl, -⟩ | ⟨rfl, rfl⟩ | ⟨hf, ht, herr⟩
  · rwa [exec_fault_self hi h]
  · simp [ErrInv, hs, errBit, faultCode]
  · refine (errInv_of_ne fun h15 => ?_).2 (herr.trans (hs hf))
    simp [h15] at ht

/-- Before LOAD no operation of a call has been performed. -/
theorem afterOp_of_lt {s : State} (n : Nat) (h : s.stage.toNat < 2) : afterOp n s = false := by
  have h15 : s.stage ≠ 15#4 := fun h15 => by simp [h15] at h
  simp [afterOp, h15, Nat.not_le.2 h]

/-- During a call and in DONE the operations below the counter have been performed. -/
theorem afterOp_of_call {s : State} (n : Nat) (h₂ : 2 ≤ s.stage.toNat) (h₉ : s.stage.toNat ≤ 9) :
    afterOp n s = decide (n < s.stage.toNat) := by
  have h15 : s.stage ≠ 15#4 := fun h15 => by simp [h15] at h₉
  simp [afterOp, h15, h₂, h₉]

/-- After a `ShapeMismatch` every operation has been performed. -/
theorem afterOp_of_mismatch {s : State} (n : Nat) (hs : s.stage = 15#4) (he : s.err = 2#2) : afterOp n s = true := by
  simp [afterOp, hs, he]

theorem ownRegisters_of_ne {s : State} (h₁ : s.stage ≠ 1#4) (h₁₅ : s.stage ≠ 15#4) : ownRegisters s = true := by
  simp [ownRegisters, h₁, h₁₅]

theorem ownRegisters_of_load {s : State} (h : s.stage = 1#4) : ownRegisters s = false := by
  simp [ownRegisters, h]

/-- The clauses of `Inv` on the registers: which hold a value, and the values. -/
def RegInv (s : State) : Prop := HeldInv s ∧ ValueInv Config.params s

theorem Inv.regInv {s : State} (h : Inv s) (ho : ownRegisters s = true) : RegInv s := h.2.2 ho

/-! ### Each operation of a call keeps the clauses on the registers -/

/-- Before LOAD the clauses say that no register holds a value. -/
theorem regInv_of_idle {s : State} (hs : s.stage = 0#4) (hv : NoValues s) : RegInv s := by
  have ha (n : Nat) : afterOp n s = false := afterOp_of_lt n (by simp [hs])
  obtain ⟨hr, hcfg, hmode, hm, hc1, hc2, hrot, hemb, hmixd, hlen, hsym⟩ := hv
  constructor
  · simp only [HeldInv, ha, Bool.false_and]
    exact ⟨hr, hcfg, hmode, hm, hc1, hc2, hrot, hemb, hmixd, hlen, hsym⟩
  · simp [ValueInv, ha, hs]

theorem regInv_load (s : State) : RegInv (loadEffect Config.params s) := by
  constructor <;> simp [HeldInv, ValueInv, loadEffect, afterOp_of_call]

/-- MASK, CSUM, ROTR, EMBED and MIX: one more register holds a value, which is the stage's function of registers that hold
theirs already; the other clauses are those of the state before. -/
theorem RegInv.exec_data {i : Instr} {s t : State} (h : RegInv s) (hs : s.stage = encode i)
    (hi : i = .mask ∨ i = .csum ∨ i = .rotr ∨ i = .embed ∨ i = .mix) (he : exec i s = .next t) : RegInv t := by
  rcases hi with rfl | rfl | rfl | rfl | rfl <;> cases he
  all_goals
    simp [RegInv, HeldInv, ValueInv, afterOp_of_call, hs, encode] at h
    simp [RegInv, HeldInv, ValueInv, afterOp_of_call, maskEffect, h]

theorem RegInv.symenc {s t : State} (h : RegInv s) (hs : s.stage = 7#4) (he : exec .symenc s = .next t) : RegInv t := by
  cases he
  have hsym (i : Fin 25) (hi : i.val < s.cfg.val.passwordLength) :=
    writeSymbols_val (symbolsF Config.params s.mixd.val s.cfg.val s.mode.val) s.sym i (by rwa [symbolsF_length])
  simp [RegInv, HeldInv, ValueInv, afterOp_of_call, hs] at h
  simpa [RegInv, HeldInv, ValueInv, afterOp_of_call, symencEffect, symbolsF_length, writeSymbols_held, h,
    -Fin.getElem_fin] using hsym

/-- A move of STAGE and ERR alone that counts the same operations as performed keeps the clauses, given those on the
shape. -/
theorem RegInv.move {s : State} {e : ErrFlags} {n : StageCode} (h : RegInv s)
    (ha : ∀ k ≤ 7, afterOp k { s with err := e, stage := n } = afterOp k s)
    (h₉ : n = 9#4 → s.cfg.val.shapeMatches = true)
    (h₁₅ : n = 15#4 → e = 2#2 → s.cfg.val.shapeMatches = false) : RegInv { s with err := e, stage := n } := by
  obtain ⟨hheld, hm, hc, hrot, hemb, hmixd, hsym, -, -⟩ := h
  constructor
  · simpa (disch := decide) only [HeldInv, ha] using hheld
  · simp (disch := decide) only [ValueInv, ha]
    exact ⟨hm, hc, hrot, hemb, hmixd, hsym, h₉, h₁₅⟩

theorem shapeOk_eq_shapeMatches {s : State} (h : s.len.val = BitVec.ofNat 5 s.cfg.val.passwordLength) :
    shapeOk s = s.cfg.val.shapeMatches := by
  simp only [shapeOk, VariantConfig.shapeMatches, Reg.get_eq_val, h, toNat_passwordLength]

theorem RegInv.grid {s t : State} (h : RegInv s) (hs : s.stage = 8#4) (herr : s.err = 0#2)
    (he : exec .grid s = .next t) : RegInv t := by
  have ha : ∀ k ≤ 7, afterOp k s = true := fun k hk => by
    simpa [afterOp_of_call, hs] using by omega
  have ⟨_, _, _, _, _, _, hsym, _, _⟩ := h
  have hshape : shapeOk s = s.cfg.val.shapeMatches := shapeOk_eq_shapeMatches (hsym (ha 7 (le_refl 7))).1
  rcases exec_grid_cases he with ⟨hok, rfl⟩ | ⟨hok, rfl⟩
  · refine h.move (fun k hk => ?_) (fun _ => hshape ▸ hok) (by simp)
    simpa [ha k hk, afterOp_of_call] using by omega
  · refine h.move (fun k hk => ?_) (by simp) (fun _ _ => hshape ▸ hok)
    rw [ha k hk, afterOp_of_mismatch k rfl (by simp [herr, errBit, faultCode])]

/-! ### The invariant at reset and along a step -/

theorem inv_applyReset (s : State) : Inv (applyReset s) :=
  ⟨.inl (by simp [State.reset]), by simp [ErrInv, State.reset],
    fun _ => regInv_of_idle rfl (applyReset_noValues s)⟩

/-- Where the registers are a call's own after an operation, the operation has kept their clauses. -/
theorem Inv.exec_regInv {i : Instr} {s t : State} (h : Inv s) (hs : s.stage = encode i) (he : exec i s = .next t)
    (ho : ownRegisters t = true) : RegInv t := by
  have wait (hi : i = .idle ∨ i = .done) : RegInv t := by
    rcases exec_wait_cases hi hs he with rfl | rfl
    · simp [ownRegisters_of_load (setStage_stage 1#4 s)] at ho
    · exact h.regInv ho
  have own (h₁ : i ≠ .load) (h₁₅ : i ≠ .fault) : RegInv s :=
    h.regInv (ownRegisters_of_ne (mt (stage_eq_encode_iff (j := .load) hs).1 h₁)
      (mt (stage_eq_encode_iff (j := .fault) hs).1 h₁₅))
  cases i
  case idle => exact wait (.inl rfl)
  case done => exact wait (.inr rfl)
  case fault =>
    rw [exec_fault_self hs he] at ho ⊢
    exact h.regInv ho
  case load => cases he; exact regInv_load s
  case symenc => exact (own (by decide) (by decide)).symenc hs he
  case grid => exact (own (by decide) (by decide)).grid hs ((errInv_of_ne (by simp [hs, encode])).1 h.2.1) he
  all_goals exact (own (by decide) (by decide)).exec_data hs (by decide) he

theorem Inv.of_exec {i : Instr} {s t : State} (h : Inv s) (hs : s.stage = encode i) (he : exec i s = .next t) : Inv t :=
  ⟨LegalStage.of_exec he, h.2.1.of_exec hs he, h.exec_regInv hs he⟩

/-! ### The obligations -/

/-- Settles O28: a step is reset or the operation of the stage code, and each keeps every clause of the invariant. -/
theorem everyStepKeepsTheInvariant : Obligations.EveryStepKeepsTheInvariant := by
  intro s t hinv hstep
  rcases step_cases hstep with ⟨-, rfl⟩ | ⟨-, i, hi, he⟩
  · exact inv_applyReset s
  · exact hinv.of_exec hi he

/-- Settles O21: ERR moves only in the fault entry of GRID, and reset writes 00. -/
theorem errChangesOnlyByFaultEntryOrReset : Obligations.ErrChangesOnlyByFaultEntryOrReset := by
  refine ⟨fun s t hr h => ?_, fun s t hr h => ?_, fun _ => rfl⟩
  · obtain ⟨i, hi, he⟩ := exec_of_step hr h
    rcases exec_err he with herr | ⟨rfl, hok, rfl⟩
    · exact .inl herr
    · exact .inr ⟨hi, (shapeOk_eq_false_iff s).1 hok, rfl, by simp [errBit, faultCode], by simp [errBit, faultCode]⟩
  · rw [step_of_rst hr] at h
    cases h
    rfl

/-- Settles O24: the frame of the operation that the stage code selects. -/
theorem eachRegisterHasOneWriter : Obligations.EachRegisterHasOneWriter := by
  refine ⟨fun s t h => step_pins h, fun s t hr h => ?_⟩
  obtain ⟨i, hi, he⟩ := exec_of_step hr h
  have other {j : Instr} (hj : s.stage ≠ encode j) : i ≠ j := mt (stage_eq_encode_iff hi).2 hj
  constructor
  · intro hload
    obtain ⟨hrec, hcfg, hmode, hm, hc, hrot, hemb, hmixd, hsym⟩ := exec_frame he (other (j := .load) hload)
    exact ⟨hrec, hcfg, hmode, fun hj => hm (other hj), fun hj => hc (other hj), fun hj => hrot (other hj),
      fun hj => hemb (other hj), fun hj => hmixd (other hj), fun hj => hsym (other hj)⟩
  · intro hgrid
    rcases exec_err he with herr | ⟨hi', -, -⟩
    · exact herr
    · exact absurd hi' (other (j := .grid) hgrid)

/-- Settles O54: in DONE every operation has run, so every register holds its value of the call. -/
theorem intermediateValuesAreReadableInDone : Obligations.IntermediateValuesAreReadableInDone := by
  intro s hinv h9
  have ha (n : Nat) (hn : n < 9) : afterOp n s = true := by simp [afterOp_of_call, h9, hn]
  obtain ⟨hheld, hvals⟩ := hinv.regInv (ownRegisters_of_ne (by simp [h9]) (by simp [h9]))
  simp (disch := decide) only [HeldInv, ValueInv, ha, forall_const] at hheld hvals
  obtain ⟨hr, hcfg, hmode, hm, hc1, hc2, hrot, hemb, hmixd, -, -⟩ := hheld
  obtain ⟨vm, ⟨vc1, vc2⟩, vrot, vemb, vmixd, -, -, -⟩ := hvals
  refine ⟨s.r.val, s.cfg.val, s.mode.val, ?_⟩
  simp only [hostReg_done h9, Reg.host?_of_held, hr, hcfg, hmode, hm, hc1, hc2, hrot, hemb, hmixd,
    ← vm, vmixd, vemb, vrot, vc1, vc2]
  simp [rotatedOf, embeddedOf, mixedOf]

/-- Settles O1: the registers by the values of a reset state, STAGE, ERR and the outputs by evaluation. -/
theorem resetIsIdleAndHoldsNoValue : Obligations.ResetIsIdleAndHoldsNoValue :=
  ⟨rfl, rfl, applyReset_noValues State.reset, rfl, rfl, rfl⟩

/-- Settles O26: each output is the test of its own definition. -/
theorem statusOutputsFollowStageAndErr : Obligations.StatusOutputsFollowStageAndErr := by
  intro s
  exact ⟨by simp [busy], by simp [doneOut], rfl, by simp [faultOut]⟩

/-- Settles O27: `State.reset` is what reset makes of it. -/
theorem invariantHoldsAtReset : Obligations.InvariantHoldsAtReset := inv_applyReset State.reset

end Sys2Proof.Machine
end

section
/-! PROOFS. The memory family (20_memory.md): what the host does between steps keeps the invariant, and the views of one
value at different group sizes nest (R36). -/

namespace Sys2Proof.Machine

/-! ### What the host does to the state -/

/-- Submitting inverted: the front end acts in IDLE and DONE alone, and either presents a record or records an invalid
one (R117, log entry 19). In both cases it drives the inputs first. -/
theorem submit_cases {f : Fields} {v : VariantInput} {mode : BitVec 1} {s t : State} (h : submit f v mode s = some t) :
    (s.stage = 0#4 ∨ s.stage = 9#4) ∧ ∃ p, t = drive p s ∨ t = raise .invalidRecord (drive p s) := by
  unfold submit at h
  split at h
  next hs =>
    refine ⟨hs, ?_⟩
    cases hp : pack f with
    | ok rec =>
      simp only [hp, Option.some.injEq] at h
      exact ⟨_, .inl h.symm⟩
    | error e =>
      simp only [hp, Option.some.injEq, pack_eq_error hp] at h
      exact ⟨_, .inr h.symm⟩
  next => cases h

/-- No clause of the invariant reads the input levels. -/
theorem inv_drive_iff (p : Pins) (s : State) : Inv (drive p s) ↔ Inv s := Iff.rfl

/-- The fault entry of an invalid record into a block with no fault recorded: ERR is 01, which leaves the registers free. -/
theorem inv_raise_invalidRecord {s : State} (herr : s.err = 0#2) : Inv (raise .invalidRecord s) := by
  have hone : s.err ||| errBit .invalidRecord = 1#2 := by simp [herr, errBit, faultCode]
  have hfree : ownRegisters (raise .invalidRecord s) = false := by simp [ownRegisters, hone]
  exact ⟨.inr rfl, by simp [ErrInv, hone], fun hown => by simp [hfree] at hown⟩

/-! ### Groups of groups -/

/-- A slice of a slice is a slice. -/
theorem extractLsb'_extractLsb'_of_add_le {w s n s' n' : Nat} (v : BitVec w) (h : s + n ≤ n') :
    (v.extractLsb' s' n').extractLsb' s n = v.extractLsb' (s' + s) n := by
  apply BitVec.eq_of_getLsbD_eq
  intro j hj
  simp [hj, show s + j < n' by omega, Nat.add_assoc]

/-- The two-bit groups of byte `i` are the groups `4i` to `4i + 3` of the whole value. -/
theorem group_byteOf (v : Emb48) {i k : Nat} (hi : i < 6) (hk : k < 4) :
    group 2 (byteOf v i) k = dibitOf v (4 * i + k) := by
  simp only [byteOf, dibitOf, group]
  rw [extractLsb'_extractLsb'_of_add_le v (by omega)]
  congr 1
  omega

/-- A byte is its four two-bit groups. -/
theorem byte_eq_groups (b : Byte) : b = group 2 b 0 ++ group 2 b 1 ++ group 2 b 2 ++ group 2 b 3 := by
  simp (disch := omega) only [group, BitVec.extractLsb'_append_extractLsb'_eq_extractLsb']
  exact BitVec.extractLsb'_eq_self.symm

/-- A byte is its two nibbles. -/
theorem byte_eq_nibbles (b : Byte) : b = group 4 b 0 ++ group 4 b 1 :=
  (BitVec.extractLsb'_append_extractLsb' (w := 4) (len := 4) (x := b)).symm

/-- The nibbles of byte `j` of a record are its nibbles `2j` and `2j + 1`. -/
theorem group_byte_eq_nibOf (v : Rec40) {j k : Nat} (hj : j < 5) (hk : k < 2) :
    group 4 (v.extractLsb' (32 - 8 * j) 8) k = nibOf v (2 * j + k) := by
  simp only [nibOf, group]
  rw [extractLsb'_extractLsb'_of_add_le v (by omega)]
  congr 1
  omega

/-- The embedded value is the rotated record, then the checksum byte (R92). -/
theorem embedF_eq_append (rot : Rec40) (c1 : Check1) (c2 : Check2) : embedF rot c1 c2 = rot ++ (c1 ++ c2) := by
  rw [embedF, BitVec.append_assoc]
  rfl

/-! ### The obligations -/

/-- Settles O29: driving touches nothing the invariant reads, and an invalid record is recorded in a block that has no
fault recorded, since it stands in IDLE or DONE. -/
theorem hostActionsKeepTheInvariant : Obligations.HostActionsKeepTheInvariant := by
  refine ⟨fun s p hinv => (inv_drive_iff p s).2 hinv, fun f v mode s t hinv hsub => ?_⟩
  obtain ⟨hs, p, rfl | rfl⟩ := submit_cases hsub
  · exact (inv_drive_iff p s).2 hinv
  · have h15 : s.stage ≠ 15#4 := by rcases hs with hs | hs <;> simp [hs]
    obtain ⟨-, herr, -⟩ := hinv
    exact inv_raise_invalidRecord ((errInv_of_ne h15).1 herr)

/-- Settles O44: each view is cut from a byte, and a group of a byte is a group of the whole value. -/
theorem groupsNestMostSignificantFirst : Obligations.GroupsNestMostSignificantFirst := by
  refine ⟨fun v i hi => ?_, fun rot c1 c2 => ⟨fun i hi => ?_, ?_⟩, fun p v cfg mode i k hi hk => ?_, fun v j hj => ?_⟩
  · have hgroups := byte_eq_groups (byteOf v i)
    simp only [group_byteOf v hi, Nat.reduceLT, Nat.add_zero] at hgroups
    exact hgroups
  · rw [embedF_eq_append, byteOf, group, BitVec.extractLsb'_append_eq_of_le (by omega)]
    congr 1
    omega
  · rw [embedF_eq_append]
    exact BitVec.extractLsb'_append_eq_right
  · rw [group_byteOf v hi hk, symbolsF_getElem?_lt p v cfg mode (by omega)]
  · have hnibs := byte_eq_nibbles (v.extractLsb' (32 - 8 * j) 8)
    rwa [group_byte_eq_nibOf v hj (by decide), group_byte_eq_nibOf v hj (by decide)] at hnibs

end Sys2Proof.Machine
end

section
/-! PROOFS. The encoding family (30_encoding.md): the stage codes, the configuration table, the layout of the record and
of its currency field, and the text of a grid. -/

namespace Sys2Proof.Machine

/-! ### Stage codes -/

theorem decode_encode (i : Instr) : decode (encode i) = .ok i := (decode_eq_ok_iff _ _).2 rfl

/-- No step writes a reserved stage code (R57). -/
theorem LegalStage.of_step {s t : State} (h : step s = .next t) : LegalStage t := by
  rcases step_cases h with ⟨-, rfl⟩ | ⟨-, i, -, he⟩
  · exact .inl (Nat.zero_le 9)
  · exact .of_exec he

/-! ### The configuration table -/

theorem VariantConfig.wellFormed_iff (c : VariantConfig) :
    c.wellFormed = true ↔ (c.g10 = .B ∨ c.g10 = .T) ∧ c.rows * c.cols = (if c.trailer then 25 else 24) := by
  simp [VariantConfig.wellFormed, VariantConfig.shapeMatches, VariantConfig.passwordLength]

/-- The two variants have different glyphs for code 10 (R51). -/
theorem tenGlyph_cases (g : TenGlyph) :
    (tenGlyph g = .B ∧ tenGlyph (otherTenGlyph g) = .T) ∨ (tenGlyph g = .T ∧ tenGlyph (otherTenGlyph g) = .B) := by
  cases g
  · exact .inl ⟨rfl, rfl⟩
  · exact .inr ⟨rfl, rfl⟩

/-- Both entries of the table are well formed, for every value of the open parameters (R51). -/
theorem vcfg_wellFormed (p : Params) (v : Variant) : (vcfg p v).wellFormed = true := by
  rw [VariantConfig.wellFormed_iff]
  cases v
  · exact ⟨(tenGlyph_cases p.g10Of24).imp And.left And.left, rfl⟩
  · exact ⟨((tenGlyph_cases p.g10Of24).imp And.right And.right).symm, rfl⟩

theorem vcfg_shape_lt (p : Params) (v : Variant) : (vcfg p v).rows < 8 ∧ (vcfg p v).cols < 8 := by
  cases v <;> simp [vcfg]

/-! ### The currency field -/

theorem pField_eq_rotateLeft (p : Nat) : pField p = (BitVec.ofNat 10 p).rotateLeft 2 := by
  apply BitVec.eq_of_getLsbD_eq
  intro i hi
  simp only [pField, BitVec.getLsbD_cast, BitVec.getLsbD_append, BitVec.getLsbD_extractLsb', BitVec.getLsbD_rotateLeft,
    Nat.reduceMod, Nat.reduceSub]
  by_cases hlow : i < 2
  · simp [hlow]
  · simp [hlow, hi, show i - 2 < 8 by omega]

/-- The count that a stored currency field stands for: its two low bits are the top ones (R48). -/
def countOf (x : BitVec 10) : Nat := x.toNat % 4 * 256 + x.toNat / 4

theorem countOf_lt (x : BitVec 10) : countOf x < 1024 := by
  unfold countOf
  omega

theorem pField_countOf (x : BitVec 10) : pField (countOf x) = x := by
  apply BitVec.eq_of_toNat_eq
  rw [toNat_pField (countOf_lt x), countOf]
  omega

theorem countOf_pField {p : Nat} (h : p < 1024) : countOf (pField p) = p := by
  rw [countOf, toNat_pField h]
  omega

/-! ### The eight flags of a row -/

/-- The flags that a byte of the record stands for, the first-named in the highest bit (R47). -/
def flagsOf (b : Byte) : Vector Nat 8 := Vector.ofFn fun k => (b.extractLsb' (7 - k) 1).toNat

theorem flagsOf_le_one (b : Byte) (k : Fin 8) : (flagsOf b)[k] ≤ 1 := by
  simp only [flagsOf, Fin.getElem_fin, Vector.getElem_ofFn]
  exact Nat.le_of_lt_succ (BitVec.isLt _)

/-- The one-bit slices of a byte, joined in order, are the byte. -/
theorem flagBits_flagsOf (b : Byte) : flagBits (flagsOf b) = b := by
  simp (disch := omega) only [flagBits, flagsOf, Vector.getElem_ofFn, BitVec.ofNat_toNat, BitVec.setWidth_eq,
    BitVec.extractLsb'_append_extractLsb'_eq_extractLsb', BitVec.cast_eq]
  exact BitVec.extractLsb'_eq_self

/-- Slice `7 - k` of the joined flags is flag `k`, one bit wide. -/
theorem flagsOf_flagBits {v : Vector Nat 8} (h : ∀ k : Fin 8, v[k] ≤ 1) : flagsOf (flagBits v) = v := by
  ext k hk
  have hslice : (flagBits v).extractLsb' (7 - k) 1 = BitVec.ofNat 1 v[k] := by
    interval_cases k <;>
      simp (disch := omega) only [flagBits, BitVec.extractLsb'_cast, BitVec.extractLsb'_append_eq_of_le,
        BitVec.extractLsb'_append_eq_of_add_le, Nat.reduceSub, BitVec.extractLsb'_eq_self]
  have hflag : v[k] < 2 := Nat.lt_succ_of_le (h ⟨k, hk⟩)
  rw [flagsOf, Vector.getElem_ofFn, hslice, BitVec.toNat_ofNat, Nat.mod_eq_of_lt hflag]

/-! ### The record -/

/-- The fields that a record stands for: PACK read backwards, slice by slice (R47). -/
def fieldsOf (rec : Rec40) : Fields where
  boss := flagsOf (rec.extractLsb' 32 8)
  m := (rec.extractLsb' 31 1).toNat
  item := flagsOf (rec.extractLsb' 23 8)
  EEE := (rec.extractLsb' 20 3).toNat
  ee := (rec.extractLsb' 18 2).toNat
  WWW := (rec.extractLsb' 15 3).toNat
  S := (rec.extractLsb' 14 1).toNat
  B := (rec.extractLsb' 13 1).toNat
  P := countOf (rec.extractLsb' 3 10)
  LLL := (rec.extractLsb' 0 3).toNat

/-- No slice exceeds its width. -/
theorem fieldsInRange_fieldsOf (rec : Rec40) : fieldsInRange (fieldsOf rec) = true := by
  have hslice {s n : Nat} : (rec.extractLsb' s n).toNat ≤ 2 ^ n - 1 := Nat.le_pred_of_lt (BitVec.isLt _)
  exact (fieldsInRange_iff _).2 ⟨flagsOf_le_one _, hslice, flagsOf_le_one _, hslice, hslice, hslice, hslice, hslice,
    Nat.le_of_lt_succ (countOf_lt _), hslice⟩

/-- The slices of a record, joined in order, are the record. -/
theorem assemble_fieldsOf (rec : Rec40) : assemble (fieldsOf rec) = rec := by
  simp (disch := omega) only [assemble, fieldsOf, flagBits_flagsOf, pField_countOf, BitVec.ofNat_toNat,
    BitVec.setWidth_eq, BitVec.extractLsb'_append_extractLsb'_eq_extractLsb', BitVec.cast_eq]
  exact BitVec.extractLsb'_eq_self

/-- Each slice of an assembled record is the field laid there, which its width holds whole. -/
theorem fieldsOf_assemble {f : Fields} (h : fieldsInRange f = true) : fieldsOf (assemble f) = f := by
  obtain ⟨hboss, hm, hitem, hEEE, hee, hWWW, hS, hB, hP, hLLL⟩ := (fieldsInRange_iff f).1 h
  simp (disch := omega) only [fieldsOf, assemble, BitVec.extractLsb'_cast, BitVec.extractLsb'_append_eq_of_le,
    BitVec.extractLsb'_append_eq_of_add_le, Nat.reduceSub, BitVec.extractLsb'_eq_self, flagsOf_flagBits hboss,
    flagsOf_flagBits hitem, countOf_pField, BitVec.toNat_ofNat, Nat.mod_eq_of_lt]

/-! ### Lines of equal length, joined -/

section
variable {α : Type}

/-- A separator after the last line as well makes the join a plain concatenation of ended lines. -/
theorem intercalate_append_separator {a : α} {L : List (List α)} (h : L ≠ []) :
    [a].intercalate L ++ [a] = (L.map (· ++ [a])).flatten := by
  induction L with
  | nil => exact absurd rfl h
  | cons l L ih =>
    cases L with
    | nil => simp
    | cons l' L =>
      rw [List.intercalate_cons_cons, List.append_assoc, ih (by simp)]
      simp

theorem length_flatten_of_length {k : Nat} {L : List (List α)} (h : ∀ l ∈ L, l.length = k) :
    L.flatten.length = L.length * k := by
  rw [List.length_flatten, List.map_eq_replicate_iff.2 h, List.sum_replicate_nat]

/-- Entry `c` of line `r` in the concatenation of lines of length `k`. -/
theorem getElem?_flatten_of_length {k : Nat} {L : List (List α)} (h : ∀ l ∈ L, l.length = k) (r : Nat) {c : Nat}
    (hc : c < k) : L.flatten[r * k + c]? = L[r]?.bind (·[c]?) := by
  induction L generalizing r with
  | nil => simp
  | cons l L ih =>
    have hl : l.length = k := h l (by simp)
    cases r with
    | zero => simp [List.getElem?_append_left, hl, hc]
    | succ r =>
      have hat : (r + 1) * k + c = l.length + (r * k + c) := by rw [hl, Nat.succ_mul]; omega
      rw [List.flatten_cons, hat, List.getElem?_append_right (Nat.le_add_right _ _), Nat.add_sub_cancel_left,
        List.getElem?_cons_succ, ih (fun l' hl' => h l' (by simp [hl'])) r]

end

/-! ### The text of a grid -/

/-- A line of the text with a newline after it. -/
def endedLine (line : List Glyph) : List Byte := line.map glyphCode ++ [newlineCode]

theorem endedLine_getElem?_lt {l : List Glyph} {c : Nat} (h : c < l.length) :
    (endedLine l)[c]? = l[c]?.map glyphCode := by
  rw [endedLine, List.getElem?_append_left (by simpa using h), List.getElem?_map]

theorem endedLine_getElem?_length (l : List Glyph) : (endedLine l)[l.length]? = some newlineCode := by
  simp [endedLine]

/-- The text with a newline after its last line too is the concatenation of the ended lines. -/
theorem render_append_newline {g : List (List Glyph)} (h : g ≠ []) :
    render g ++ [newlineCode] = (g.map endedLine).flatten := by
  rw [render, intercalate_append_separator (by simpa using h), List.map_map]
  rfl

section
variable {g : List (List Glyph)} {cols : Nat} (hcols : ∀ line ∈ g, line.length = cols)
include hcols

theorem length_of_mem_map_endedLine : ∀ l ∈ g.map endedLine, l.length = cols + 1 := by
  intro l hl
  obtain ⟨line, hline, rfl⟩ := List.mem_map.1 hl
  simp [endedLine, hcols line hline]

theorem render_length_succ (h : g ≠ []) : (render g).length + 1 = g.length * (cols + 1) := by
  have hlen := congrArg List.length (render_append_newline h)
  rwa [length_flatten_of_length (length_of_mem_map_endedLine hcols), List.length_append, List.length_map] at hlen

/-- Every byte of the text is one of an ended line, at the same place. -/
theorem render_getElem? {r c : Nat} (hr : r < g.length) (hc : c ≤ cols)
    (hlast : r * (cols + 1) + c < (render g).length) :
    (render g)[r * (cols + 1) + c]? = (endedLine g[r])[c]? := by
  have hne : g ≠ [] := List.ne_nil_of_length_pos (Nat.zero_lt_of_lt hr)
  rw [← List.getElem?_append_left (l₂ := [newlineCode]) hlast, render_append_newline hne,
    getElem?_flatten_of_length (length_of_mem_map_endedLine hcols) r (Nat.lt_succ_of_le hc)]
  simp [hr]

end

theorem gridRows_length (symbols : List Glyph) (rows cols : Nat) : (gridRows symbols rows cols).length = rows := by
  simp [gridRows]

theorem length_of_mem_gridRows {symbols : List Glyph} {rows cols : Nat} (hs : rows * cols = symbols.length) :
    ∀ line ∈ gridRows symbols rows cols, line.length = cols := by
  intro line hline
  obtain ⟨r, hr, rfl⟩ := List.mem_map.1 hline
  exact gridRow_length hs (List.mem_range.1 hr)

section
variable {symbols : List Glyph} {rows cols : Nat} (hs : rows * cols = symbols.length)
include hs

theorem render_gridRows_length (hrows : 0 < rows) :
    (render (gridRows symbols rows cols)).length = rows * cols + rows - 1 := by
  have hne : gridRows symbols rows cols ≠ [] := List.ne_nil_of_length_pos (by rwa [gridRows_length])
  have hlen := render_length_succ (length_of_mem_gridRows hs) hne
  rw [gridRows_length, Nat.mul_succ] at hlen
  omega

/-- Byte `c` of line `r` of the text, the newline that ends a line being its byte `cols`; the last line has none. -/
theorem render_gridRows_getElem? {r c : Nat} (hr : r < rows) (hc : c ≤ cols) (hlast : r + 1 < rows ∨ c < cols) :
    (render (gridRows symbols rows cols))[r * (cols + 1) + c]? = (endedLine (gridRow symbols rows cols r))[c]? := by
  have hlt : r * (cols + 1) + c < (render (gridRows symbols rows cols)).length := by
    have hline : (r + 1) * (cols + 1) ≤ rows * (cols + 1) := Nat.mul_le_mul_right _ hr
    have hnext (h : r + 1 < rows) : (r + 1 + 1) * (cols + 1) ≤ rows * (cols + 1) := Nat.mul_le_mul_right _ h
    rw [render_gridRows_length hs (Nat.zero_lt_of_lt hr), ← Nat.mul_add_one]
    simp only [Nat.succ_mul] at hline hnext ⊢
    omega
  rw [render_getElem? (length_of_mem_gridRows hs) (by rwa [gridRows_length]) hc hlt]
  simp [gridRows]

end

/-! ### The obligations -/

/-- Settles O4: a reserved code decodes to nothing, and the end of a step is a legal stage. -/
theorem reservedStageCodesHaveNoStep : Obligations.ReservedStageCodesHaveNoStep :=
  ⟨fun _ hr h₁ h₂ => step_of_reserved hr h₁ h₂, fun _ _ h => LegalStage.of_step h⟩

/-- Settles O51: the text and one more newline are the ended lines joined, each `cols + 1` bytes. -/
theorem textIsLinesSeparatedByNewlines : Obligations.TextIsLinesSeparatedByNewlines := by
  intro symbols rows cols g hrows hg
  obtain ⟨hs, rfl⟩ := toGrid_eq_ok hg
  have hlen := render_gridRows_length hs hrows
  refine ⟨hlen, fun r c hr hc => ?_, fun r hr => ?_, fun h₄ h₆ => ?_, fun h₅ h₅' => ?_⟩
  · rw [render_gridRows_getElem? hs hr hc.le (.inr hc), endedLine_getElem?_lt (by rwa [gridRow_length hs hr]),
      gridRow_getElem? hs hr hc, gridIndex]
  · have hr' : r < rows := Nat.lt_of_succ_lt hr
    have hend := endedLine_getElem?_length (gridRow symbols rows cols r)
    rw [gridRow_length hs hr'] at hend
    rw [render_gridRows_getElem? hs hr' le_rfl (.inl hr), hend]
  · rw [hlen, h₄, h₆]
  · rw [hlen, h₅, h₅']

/-- Settles O57: `fieldsOf` undoes PACK on both sides. -/
theorem everyPatternIsALegalRecord : Obligations.EveryPatternIsALegalRecord := by
  intro rec
  refine ⟨fieldsOf rec, pack_eq_ok_iff.2 ⟨fieldsInRange_fieldsOf rec, assemble_fieldsOf rec⟩, fun g hg => ?_⟩
  obtain ⟨hrange, rfl⟩ := pack_eq_ok_iff.1 hg
  exact (fieldsOf_assemble hrange).symm

/-- Settles O5: each listed code is the code of its operation. -/
theorem opcodeMapDecodes : Obligations.OpcodeMapDecodes :=
  ⟨decode_encode .idle, decode_encode .load, decode_encode .mask, decode_encode .csum, decode_encode .rotr,
    decode_encode .embed, decode_encode .mix, decode_encode .symenc, decode_encode .grid, decode_encode .done,
    decode_encode .fault, fun _ h₁ h₂ => decode_reserved h₁ h₂⟩

/-- Settles O6: the two directions of `decode_eq_ok_iff`. -/
theorem decodeAndEncodeAgree : Obligations.DecodeAndEncodeAgree :=
  ⟨decode_encode, fun c i h => (decode_eq_ok_iff c i).1 h⟩

/-- Settles O12: the table's entries are read off its definition; their glyphs are the two members of {B, T}. -/
theorem configurationTableEntries : Obligations.ConfigurationTableEntries := by
  refine ⟨rfl, rfl, rfl, rfl, fun m => ?_, VariantConfig.wellFormed_iff, fun p => ?_⟩
  · cases m <;> rfl
  · exact ⟨rfl, rfl, rfl, rfl, rfl, rfl, rfl, tenGlyph_cases p.g10Of24, beq_iff_eq, beq_iff_eq,
      fun v => ⟨vcfg_wellFormed p v, vcfg_shape_lt p v⟩⟩

/-- Settles O56: as a number by `toNat_pField`, as a rotation bit by bit. -/
theorem currencyFieldIsRotatedByTwo : Obligations.CurrencyFieldIsRotatedByTwo :=
  ⟨fun p h => ⟨toNat_pField h, pField_eq_rotateLeft p⟩, rfl, rfl, rfl⟩

end Sys2Proof.Machine
end

section
/-! PROOFS. The sequencer family (40_sequencer.md): the control operations, the transfers of STAGE, what a step reads of
the inputs, whole calls, and PACK. -/

namespace Sys2Proof.Machine

/-! ### What an operation does to STAGE -/

/-- The transfers of R70: a waiting operation goes to LOAD or stays, GRID may enter FAULT, FAULT stays, and every other
operation goes to the next code. -/
theorem exec_stage_cases {i : Instr} {s t : State} (h : exec i s = .next t) :
    ((i = .idle ∨ i = .done) ∧ s.pins.start = true ∧ t.stage = 1#4)
      ∨ ((i = .idle ∨ i = .done) ∧ s.pins.start = false ∧ t.stage = encode i)
      ∨ (1 ≤ (encode i).toNat ∧ (encode i).toNat ≤ 8 ∧ t.stage.toNat = (encode i).toNat + 1)
      ∨ (i = .grid ∧ shapeOk s = false ∧ t.stage = 15#4)
      ∨ (i = .fault ∧ t.stage = 15#4) := by
  cases i
  case idle => cases h; cases s.pins.start <;> simp [encode]
  case done => cases h; cases s.pins.start <;> simp [encode]
  case fault => cases h; simp
  case grid =>
    rcases exec_grid_cases h with ⟨-, rfl⟩ | ⟨hok, rfl⟩
    · simp [encode]
    · simp [hok]
  all_goals (cases h; simp [encode, loadEffect, maskEffect, symencEffect])

/-- The data operations 2 to 7 advance STAGE by one (R67). -/
theorem exec_stage_succ {i : Instr} {s t : State} (h : exec i s = .next t) (h₂ : 2 ≤ (encode i).toNat)
    (h₇ : (encode i).toNat ≤ 7) : t.stage.toNat = (encode i).toNat + 1 := by
  rcases exec_stage_cases h with ⟨rfl | rfl, -⟩ | ⟨rfl | rfl, -⟩ | ⟨-, -, ht⟩ | ⟨rfl, -⟩ | ⟨rfl, -⟩
  case inr.inr.inl => exact ht
  all_goals simp [encode] at h₂ h₇

/-- A step without reset at the code of an operation has a next state, which is the operation's. -/
theorem step_next_of_stage {s : State} {i : Instr} (hr : s.pins.rst = false) (hi : s.stage = encode i) :
    ∃ t, step s = .next t ∧ exec i s = .next t := by
  rw [step_of_stage hr hi]
  obtain ⟨t, ht⟩ := exec_next i s
  exact ⟨t, ht, ht⟩

/-- The stage codes of the two operations that wait for `start`. -/
theorem stage_of_wait {s : State} {i : Instr} (hi : s.stage = encode i) (hw : i = .idle ∨ i = .done) :
    s.stage = 0#4 ∨ s.stage = 9#4 :=
  hw.imp (fun h => hi.trans (congrArg encode h)) (fun h => hi.trans (congrArg encode h))

/-- With `start` low IDLE and DONE write the code that stands there (R65, R68). -/
theorem step_wait_self {s : State} {i : Instr} (hw : i = .idle ∨ i = .done) (hi : s.stage = encode i)
    (hr : s.pins.rst = false) (hstart : s.pins.start = false) : step s = .next s := by
  rw [step_of_stage hr hi]
  rcases hw with rfl | rfl <;>
    (simp only [exec, execIdle, execDone, hstart]; exact congrArg _ (setStage_self hi))

theorem LegalStage.exists_encode {s : State} (h : LegalStage s) : ∃ i, s.stage = encode i := by
  rcases stage_cases s.stage with hi | ⟨h₁, h₂⟩
  · exact hi
  · rcases h with h₉ | h₁₅
    · omega
    · simp [h₁₅] at h₂

/-! ### What an operation reads of the inputs -/

/-- Under a change of inputs it does not read, an operation does the same (R73). -/
theorem exec_drive {i : Instr} {s t : State} {p : Pins} (h : exec i s = .next t)
    (hload : i = .load → p.recI = s.pins.recI ∧ p.variantI = s.pins.variantI ∧ p.modeI = s.pins.modeI)
    (hwait : i = .idle ∨ i = .done → p.start = s.pins.start) : exec i (drive p s) = .next (drive p t) := by
  cases i
  case load =>
    obtain ⟨hrec, hvariant, hmode⟩ := hload rfl
    cases h
    simp [exec, execLoad, loadEffect, drive, hrec, hvariant, hmode]
  case idle =>
    cases h
    simp [exec, execIdle, setStage, drive, hwait]
  case done =>
    cases h
    simp [exec, execDone, setStage, drive, hwait]
  case grid =>
    rw [exec_grid_eq, show shapeOk (drive p s) = shapeOk s from rfl]
    rcases exec_grid_cases h with ⟨hok, rfl⟩ | ⟨hok, rfl⟩ <;> rw [hok] <;> rfl
  all_goals (cases h; rfl)

/-! ### Runs -/

theorem runPins_cons {p : Pins} {s t : State} (ps : List Pins) (h : step (drive p s) = .next t) :
    runPins (p :: ps) s = runPins ps t := by
  simp [runPins, h]

theorem runPins_append {ps : List Pins} {s t : State} (qs : List Pins) (h : runPins ps s = .next t) :
    runPins (ps ++ qs) s = runPins qs t := by
  induction ps generalizing s with
  | nil => cases h; rfl
  | cons p ps ih =>
    cases hu : step (drive p s) with
    | next u =>
      rw [runPins_cons ps hu] at h
      rw [List.cons_append, runPins_cons _ hu, ih h]
    | fault f => simp [runPins, hu] at h
    | refused r => simp [runPins, hu] at h

/-! ### The stages of a call -/

/-- A call of these inputs is at one of its stages: the clauses of the invariant on the registers, what LOAD latched, and
the flags that stood in ERR at LOAD. -/
def InCall (rec : Rec40) (cfg : VariantConfig) (mode : Mode) (e : ErrFlags) (s : State) : Prop :=
  RegInv s ∧ s.r.val = rec ∧ s.cfg.val = cfg ∧ s.mode.val = mode ∧ s.err = e

section
variable {rec : Rec40} {cfg : VariantConfig} {mode : Mode} {e : ErrFlags}

theorem inCall_drive_iff (p : Pins) (s : State) : InCall rec cfg mode e (drive p s) ↔ InCall rec cfg mode e s := Iff.rfl

/-- LOAD begins a call of the inputs it samples, from any state at its stage. -/
theorem inCall_load (s : State) :
    InCall s.pins.recI (configInput Config.params s.pins.variantI) (modeOfBit s.pins.modeI) s.err
      (loadEffect Config.params s) :=
  ⟨regInv_load s, rfl, rfl, rfl, rfl⟩

theorem InCall.of_exec {i : Instr} {s t : State} (h : InCall rec cfg mode e s) (hs : s.stage = encode i)
    (h₂ : 2 ≤ (encode i).toNat) (h₇ : (encode i).toNat ≤ 7) (he : exec i s = .next t) : InCall rec cfg mode e t := by
  obtain ⟨hregs, hrec, hcfg, hmode, herr⟩ := h
  have hregs' : RegInv t := by
    cases i
    case symenc => exact hregs.symenc hs he
    case mask | csum | rotr | embed | mix => exact hregs.exec_data hs (by decide) he
    all_goals simp [encode] at h₂ h₇
  obtain ⟨hr, hc, hm, -⟩ := exec_frame he (fun hl => by simp [hl, encode] at h₂)
  rcases exec_err he with ht | ⟨rfl, -⟩
  · exact ⟨hregs', hr ▸ hrec, hc ▸ hcfg, hm ▸ hmode, ht ▸ herr⟩
  · simp [encode] at h₇

/-- The stages of a call follow in order, one step each, up to GRID (R63). -/
theorem InCall.run {ps : List Pins} {s : State} (h : InCall rec cfg mode e s) (h₂ : 2 ≤ s.stage.toNat)
    (h₈ : s.stage.toNat + ps.length ≤ 8) (hps : ∀ q ∈ ps, q.rst = false) :
    ∃ t, runPins ps s = .next t ∧ InCall rec cfg mode e t ∧ t.stage.toNat = s.stage.toNat + ps.length := by
  induction ps generalizing s with
  | nil => exact ⟨s, rfl, h, rfl⟩
  | cons p ps ih =>
    rw [List.forall_mem_cons] at hps
    rw [List.length_cons] at h₈ ⊢
    obtain ⟨i, hi⟩ : ∃ i, s.stage = encode i := LegalStage.exists_encode (.inl (by omega))
    obtain ⟨u, hstep, he⟩ := step_next_of_stage (s := drive p s) hps.1 hi
    rw [hi] at h₂ h₈ ⊢
    have hu : u.stage.toNat = (encode i).toNat + 1 := exec_stage_succ he h₂ (by omega)
    have hcall : InCall rec cfg mode e u := ((inCall_drive_iff p s).2 h).of_exec hi h₂ (by omega) he
    obtain ⟨t, hrun, ht, hstage⟩ := ih hcall (by omega) (by omega) hps.2
    exact ⟨t, runPins_cons ps hstep ▸ hrun, ht, by omega⟩

end

/-- The first steps of a call, from LOAD to GRID at most: the call is of the inputs sampled at the first. -/
theorem runPins_inCall {s : State} {p : Pins} {ps : List Pins} (hs : s.stage = 1#4) (hp : p.rst = false)
    (hlen : ps.length ≤ 6) (hps : ∀ q ∈ ps, q.rst = false) :
    ∃ t, runPins (p :: ps) s = .next t ∧ t.stage.toNat = 2 + ps.length
      ∧ InCall p.recI (configInput Config.params p.variantI) (modeOfBit p.modeI) s.err t := by
  have hload : step (drive p s) = .next (loadEffect Config.params (drive p s)) := step_of_stage (i := .load) hp hs
  have h8 : 2 + ps.length ≤ 8 := by omega
  obtain ⟨t, hrun, hcall, hstage⟩ := (inCall_load (drive p s)).run le_rfl h8 hps
  exact ⟨t, runPins_cons ps hload ▸ hrun, hstage, hcall⟩

/-! ### The end of a call -/

/-- The configuration, the intermediate registers and the symbol buffer hold what ENCODE passes through (R71). -/
def CallRegs (rec : Rec40) (cfg : VariantConfig) (mode : Mode) (s : State) : Prop :=
  let m := maskF Config.params.mask40 rec cfg mode
  s.cfg = .write cfg ∧ s.m = .write m ∧ s.c1 = .write (checksum1 m) ∧ s.c2 = .write (checksum2 m)
    ∧ s.rot = .write (rotatedOf m) ∧ s.emb = .write (embeddedOf m) ∧ s.mixd = .write (mixedOf m)
    ∧ s.len = .write (BitVec.ofNat 5 cfg.passwordLength)
    ∧ ∀ i : Fin 25, i.val < cfg.passwordLength →
        s.sym[i].held = true ∧ (passwordOf Config.params rec cfg mode)[i.val]? = some s.sym[i].val

/-- A call of these inputs has ended: in DONE when the shape matches, else in FAULT with `ERR[1]` set. -/
def CallEnded (rec : Rec40) (cfg : VariantConfig) (mode : Mode) (e : ErrFlags) (s : State) : Prop :=
  CallRegs rec cfg mode s ∧ s.stage = (if cfg.shapeMatches then 9#4 else 15#4)
    ∧ s.err = (if cfg.shapeMatches then e else e ||| 2#2)

theorem Reg.eq_write_iff {α : Type} {r : Reg α} {v : α} : r = .write v ↔ r.held = true ∧ r.val = v := by
  obtain ⟨val, held⟩ := r
  simp [Reg.write, and_comm]

section
variable {rec : Rec40} {cfg : VariantConfig} {mode : Mode} {e : ErrFlags} {s t : State}

/-- At GRID every operation that writes a register has run. -/
theorem InCall.callRegs (h : InCall rec cfg mode e s) (hs : s.stage = 8#4) : CallRegs rec cfg mode s := by
  have ha (n : Nat) (hn : n < 8) : afterOp n s = true := by simp [afterOp_of_call, hs, hn]
  obtain ⟨⟨hheld, hvals⟩, rfl, rfl, rfl, -⟩ := h
  simp (disch := decide) only [HeldInv, ValueInv, ha, forall_const, Bool.true_and] at hheld hvals
  obtain ⟨-, hcfg, -, hm, hc1, hc2, hrot, hemb, hmixd, hlen, hsym⟩ := hheld
  obtain ⟨vm, ⟨vc1, vc2⟩, vrot, vemb, vmixd, ⟨vlen, vsym⟩, -, -⟩ := hvals
  simp only [CallRegs, Reg.eq_write_iff, passwordOf, mixedOf, embeddedOf, rotatedOf, ← vm, ← vc1, ← vc2, ← vrot, ← vemb,
    ← vmixd]
  simp only [and_true]
  exact ⟨hcfg, hm, hc1, hc2, hrot, hemb, hmixd, ⟨hlen, vlen⟩, fun i hi => ⟨by rw [hsym, decide_eq_true hi], vsym i hi⟩⟩

theorem CallRegs.shapeOk_eq (h : CallRegs rec cfg mode s) : shapeOk s = cfg.shapeMatches := by
  obtain ⟨hcfg, -, -, -, -, -, -, hlen, -⟩ := h
  rw [shapeOk_eq_shapeMatches (by simp [hcfg, hlen]), hcfg, Reg.write_val]

theorem InCall.grid (h : InCall rec cfg mode e s) (hs : s.stage = 8#4) (he : exec .grid s = .next t) :
    CallEnded rec cfg mode e t := by
  have hregs : CallRegs rec cfg mode s := h.callRegs hs
  obtain ⟨-, -, -, -, rfl⟩ := h
  rcases exec_grid_cases he with ⟨hok, rfl⟩ | ⟨hok, rfl⟩ <;> rw [hregs.shapeOk_eq] at hok
  · exact ⟨hregs, by simp [hok], by simp [hok]⟩
  · exact ⟨hregs, by simp [hok], by simp [hok, errBit, faultCode]⟩

/-- The host reads the result of ENCODE, and nothing when ENCODE gives a fault. -/
theorem CallEnded.passwordOut_eq_encode (h : CallEnded rec cfg mode e s) :
    passwordOut s = (encodeRecord Config.params rec cfg mode).toOption := by
  obtain ⟨hregs, hstage, -⟩ := h
  have hok := hregs.shapeOk_eq
  obtain ⟨hcfg, -, -, -, -, -, -, hlen, hsym⟩ := hregs
  have hl : (passwordOf Config.params rec cfg mode).length = cfg.passwordLength := symbolsF_length _ _ _ _
  rw [encodeRecord_eq]
  cases hshape : cfg.shapeMatches <;> simp only [hshape, if_true, Bool.false_eq_true, if_false] at hok hstage ⊢
  · have hnone : hostReg s s.cfg = none := hostReg_not_done (by simp [hstage]) _
    simp [passwordOut, hnone, Except.toOption]
  · have hsyms : symbolsOut s = some (passwordOf Config.params rec cfg mode) :=
      symbolsOut_eq hstage (by simp [hlen]) (by rw [hlen, Reg.write_val, toNat_passwordLength, hl])
        (hl ▸ passwordLength_le cfg) (by rwa [hl])
    rw [passwordOut_eq hstage hsyms (by simp [hcfg]) hok]
    simp [hcfg, Except.toOption]

end

/-- A whole call, from any state at LOAD and whatever the inputs do after it. -/
theorem runPins_callEnded {s : State} {p : Pins} {ps : List Pins} (hs : s.stage = 1#4) (hp : p.rst = false)
    (hlen : ps.length = 7) (hps : ∀ q ∈ ps, q.rst = false) :
    ∃ t, runPins (p :: ps) s = .next t
      ∧ CallEnded p.recI (configInput Config.params p.variantI) (modeOfBit p.modeI) s.err t := by
  obtain rfl | ⟨qs, q, rfl⟩ := List.eq_nil_or_concat' ps
  · simp at hlen
  rw [List.length_append, List.length_singleton] at hlen
  rw [List.forall_mem_append, List.forall_mem_singleton] at hps
  obtain ⟨u, hrun, hstage, hcall⟩ := runPins_inCall hs hp (by omega) hps.1
  have h8 : u.stage = 8#4 := BitVec.eq_of_toNat_eq (by simp; omega)
  obtain ⟨t, hstep, he⟩ := step_next_of_stage (s := drive q u) (i := .grid) hps.2 h8
  refine ⟨t, ?_, ((inCall_drive_iff q u).2 hcall).grid h8 he⟩
  rw [← List.cons_append, runPins_append [q] hrun, runPins_cons [] hstep, runPins]

/-! ### What the host's reads say of one another -/

theorem hostReg_eq_some_iff {α : Type} {s : State} {r : Reg α} {v : α} :
    hostReg s r = some v ↔ s.stage = 9#4 ∧ r.held = true ∧ r.val = v := by
  rw [hostReg, Option.ite_none_right_eq_some, Reg.host?_eq_some_iff]

/-- A sequence read as a whole is read entry by entry, with nothing past its end. -/
theorem symbolsOut_eq_some {s : State} {g : List Glyph} (h : symbolsOut s = some g) :
    lenOut s = some (BitVec.ofNat 5 g.length) ∧ g.length = s.len.val.toNat ∧ ∀ i, symAt s i = g[i]? := by
  cases hn : lenOut s with
  | none => simp [symbolsOut, hn] at h
  | some n =>
    obtain ⟨-, -, hval⟩ := hostReg_eq_some_iff.1 hn
    simp only [symbolsOut, hn, mapM_eq_some_iff] at h
    have hlen : g.length = n.toNat := by simpa using (congrArg List.length h).symm
    refine ⟨by simp [hlen], by rw [hlen, hval], fun i => ?_⟩
    by_cases hi : i < n.toNat
    · have hentry := congrArg (·[i]?) h
      simpa [hi, hlen] using hentry
    · rw [List.getElem?_eq_none (by omega)]
      simp [symAt, hn, hi]

/-- The parts of a password that the host takes from the block. -/
theorem passwordOut_eq_some {s : State} {w : EncodedPassword} (h : passwordOut s = some w) :
    symbolsOut s = some w.symbols ∧ hostReg s s.cfg = some s.cfg.val ∧ shapeOk s = true
      ∧ w.grid = gridRows w.symbols s.cfg.val.rows s.cfg.val.cols := by
  unfold passwordOut at h
  split at h
  next g cfg hsyms hcfg =>
    obtain ⟨hok, hw⟩ := Option.ite_none_right_eq_some.1 h
    obtain ⟨-, -, hval⟩ := hostReg_eq_some_iff.1 hcfg
    cases hw
    exact ⟨hsyms, hval ▸ hcfg, hok, hval ▸ rfl⟩
  next => cases h

/-- Every read of a grid position agrees with the password (R109, R114). -/
theorem gridAt_of_passwordOut {s : State} {w : EncodedPassword} (h : passwordOut s = some w) (r c : Nat) :
    gridAt s r c = w.grid[r]?.bind fun row => row[c]? := by
  obtain ⟨hsyms, hcfg, hok, hgrid⟩ := passwordOut_eq_some h
  obtain ⟨-, hlen, hat⟩ := symbolsOut_eq_some hsyms
  have hshape : s.cfg.val.rows * s.cfg.val.cols = w.symbols.length := by
    rw [hlen]
    simpa [shapeOk] using hok
  rw [hgrid, gridRows_getElem? c hshape, gridAt, hcfg]
  simp [hok, hat]

/-! ### The range check of PACK -/

theorem fieldsInRange_eq_false_iff (f : Fields) : fieldsInRange f = false ↔ FieldOutOfRange f := by
  rw [← Bool.not_eq_true, fieldsInRange_iff]
  simp only [FieldOutOfRange, not_and_or, not_forall, not_le]

/-- A flag of the byte at bit `n` of a record is the record's bit at its place, the first-named highest (R47). -/
theorem flagsOf_slice (rec : Rec40) (n : Nat) (k : Fin 8) :
    (flagsOf (rec.extractLsb' n 8))[k] = (rec.extractLsb' (n + (7 - k.val)) 1).toNat := by
  simp only [flagsOf, Fin.getElem_fin, Vector.getElem_ofFn]
  rw [extractLsb'_extractLsb'_of_add_le rec (by omega)]

/-! ### The obligations -/

/-- Settles O7: a stage code is an operation's or reserved. -/
theorem onlyReservedCodesStopTheMachine : Obligations.OnlyReservedCodesStopTheMachine := by
  intro s
  cases hr : s.pins.rst
  · rcases stage_cases s.stage with ⟨i, hi⟩ | ⟨h₁, h₂⟩
    · obtain ⟨t, hstep, -⟩ := step_next_of_stage hr hi
      exact .inl ⟨t, hstep⟩
    · exact .inr ⟨rfl, h₁, h₂, step_of_reserved hr h₁ h₂⟩
  · exact .inl ⟨_, step_of_rst hr⟩

/-- Settles O22: the operation of each code from 2 to 7 goes to the next code, and GRID ends by its shape check. -/
theorem dataOperationsAdvanceTheStage : Obligations.DataOperationsAdvanceTheStage := by
  intro s hr
  refine ⟨fun h₂ h₇ => ?_, fun h8 hshape => ?_, fun h8 hshape => ?_⟩
  · obtain ⟨i, hi⟩ : ∃ i, s.stage = encode i := LegalStage.exists_encode (.inl (by omega))
    obtain ⟨t, hstep, he⟩ := step_next_of_stage hr hi
    rw [hi] at h₂ h₇ ⊢
    exact ⟨t, hstep, exec_stage_succ he h₂ h₇⟩
  · have hok : shapeOk s = true := by simpa [shapeOk] using hshape
    exact ⟨setStage 9#4 s, by rw [step_of_stage (i := .grid) hr h8, exec_grid_eq, if_pos hok], rfl⟩
  · have hok : shapeOk s = false := (shapeOk_eq_false_iff s).2 hshape
    rw [step_of_stage (i := .grid) hr h8, exec_grid_eq, hok]
    rfl

/-- Settles O23: the transfers of the operation that the stage code selects. -/
theorem onlyTheListedStageTransfers : Obligations.OnlyTheListedStageTransfers := by
  intro s t h
  refine ⟨fun hr => ?_, fun hr => ?_⟩
  · rw [step_of_rst hr] at h
    cases h
    rfl
  · obtain ⟨i, hi, he⟩ := exec_of_step hr h
    rcases exec_stage_cases he with ⟨hw, hstart, ht⟩ | ⟨hw, hstart, ht⟩ | hnext | ⟨rfl, hok, ht⟩ | ⟨rfl, ht⟩
    · exact .inl ⟨stage_of_wait hi hw, hstart, ht⟩
    · exact .inr (.inl ⟨stage_of_wait hi hw, hstart, ht.trans hi.symm⟩)
    · exact .inr (.inr (.inl (hi ▸ hnext)))
    · exact .inr (.inr (.inr (.inl ⟨hi, hok, ht⟩)))
    · exact .inr (.inr (.inr (.inr ⟨hi, ht⟩)))

/-- Settles O25: the operation of the stage code reads no input but those held equal. -/
theorem inputsAreSampledOnlyWhereStated : Obligations.InputsAreSampledOnlyWhereStated := by
  intro s p hr hp hlegal hload hwait
  obtain ⟨i, hi⟩ := hlegal.exists_encode
  obtain ⟨t, hstep, he⟩ := step_next_of_stage hr hi
  refine ⟨t, hstep, ?_⟩
  rw [step_of_stage (s := drive p s) hp hi]
  exact exec_drive he (fun hl => hload (hi.trans (congrArg encode hl))) (fun hw => hwait (stage_of_wait hi hw))

/-- Settles O31: the call ends with what ENCODE gives, and every read of the host is of that password. -/
theorem callComputesEncodeInEightSteps : Obligations.CallComputesEncodeInEightSteps := by
  intro s p ps hs hp hlen hps
  obtain ⟨t, hrun, hend⟩ := runPins_callEnded hs hp hlen hps
  have hpw := hend.passwordOut_eq_encode
  obtain ⟨-, hstage, herr⟩ := hend
  refine ⟨fun w hw => ?_, fun f hf => ?_⟩
  · rw [hw] at hpw
    obtain ⟨hsyms, -⟩ := passwordOut_eq_some hpw
    obtain ⟨hlenOut, -⟩ := symbolsOut_eq_some hsyms
    cases hshape : (configInput Config.params p.variantI).shapeMatches
    · simp [encodeRecord_eq, hshape] at hw
    · rw [hshape] at hstage herr
      exact ⟨t, hrun, hstage, herr, hpw, hlenOut, gridAt_of_passwordOut hpw⟩
  · rw [hf] at hpw
    cases hshape : (configInput Config.params p.variantI).shapeMatches
    · rw [hshape] at hstage herr
      rw [encodeRecord_eq, hshape] at hf
      cases hf
      exact ⟨rfl, t, hrun, hstage, herr, hpw⟩
    · simp [encodeRecord_eq, hshape] at hf

/-- Settles O32: LOAD, then the operations up to GRID at most. -/
theorem stagesFollowInFixedOrder : Obligations.StagesFollowInFixedOrder := by
  intro s ps hs hlen hps
  cases ps with
  | nil => exact ⟨s, rfl, by simp [hs]⟩
  | cons p ps =>
    rw [List.forall_mem_cons] at hps
    rw [List.length_cons] at hlen ⊢
    obtain ⟨t, hrun, hstage, -⟩ := runPins_inCall hs hps.1 (Nat.le_of_succ_le_succ hlen) hps.2
    exact ⟨t, hrun, by omega⟩

/-- Settles O33: ENCODE fails on the shape alone, and the end of a call is given by what LOAD sampled. -/
theorem callsDoNotDependOnHistory : Obligations.CallsDoNotDependOnHistory := by
  refine ⟨fun p rec cfg mode hwf => ?_,
    fun s₁ s₂ p₁ p₂ ps₁ ps₂ hs₁ hs₂ hlen₁ hlen₂ hp₁ hp₂ hps₁ hps₂ hrec hvar hmode => ?_⟩
  · have hshape : cfg.shapeMatches = true := (Bool.and_eq_true_iff.1 hwf).2
    exact ⟨_, by rw [encodeRecord_eq, if_pos hshape]⟩
  · obtain ⟨t₁, hrun₁, hend₁⟩ := runPins_callEnded hs₁ hp₁ hlen₁ hps₁
    obtain ⟨t₂, hrun₂, hend₂⟩ := runPins_callEnded hs₂ hp₂ hlen₂ hps₂
    rw [← hrec, ← hvar, ← hmode] at hend₂
    have hpw : passwordOut t₁ = passwordOut t₂ := hend₁.passwordOut_eq_encode.trans hend₂.passwordOut_eq_encode.symm
    obtain ⟨⟨-, hm₁, hc1₁, hc2₁, hrot₁, hemb₁, hmixd₁, hl₁, -⟩, hstage₁, -⟩ := hend₁
    obtain ⟨⟨-, hm₂, hc1₂, hc2₂, hrot₂, hemb₂, hmixd₂, hl₂, -⟩, hstage₂, -⟩ := hend₂
    have hstage : t₁.stage = t₂.stage := hstage₁.trans hstage₂.symm
    refine ⟨t₁, t₂, hrun₁, hrun₂, hstage, hpw, by rw [textOut, hpw, textOut], ?_, hm₁.trans hm₂.symm,
      hc1₁.trans hc1₂.symm, hc2₁.trans hc2₂.symm, hrot₁.trans hrot₂.symm, hemb₁.trans hemb₂.symm,
      hmixd₁.trans hmixd₂.symm⟩
    simp only [lenOut, hostReg, hstage, hl₁, hl₂]

/-- Settles O55: PACK answers the assembled record, whose slices are the fields. -/
theorem packLaysOutTheFields : Obligations.PackLaysOutTheFields := by
  intro f
  rw [← fieldsInRange_eq_false_iff]
  refine ⟨by simp [pack], fun hf => ?_⟩
  rw [Bool.not_eq_false] at hf
  refine ⟨assemble f, pack_eq_ok_iff.2 ⟨hf, rfl⟩, ?_⟩
  have hslices := fieldsOf_assemble hf
  generalize assemble f = rec at hslices
  subst hslices
  refine ⟨fun k => ?_, rfl, fun k => ?_, rfl, rfl, rfl, rfl, rfl, ?_, rfl⟩
  · rw [fieldsOf, flagsOf_slice, show 32 + (7 - k.val) = 39 - k.val by omega]
  · rw [fieldsOf, flagsOf_slice, show 23 + (7 - k.val) = 30 - k.val by omega]
  · simp only [fieldsOf, countOf]
    omega

/-- Settles O3: the operation of a stage code is the one whose code it is. -/
theorem stepRunsTheSelectedOperation : Obligations.StepRunsTheSelectedOperation :=
  fun s i hr hi => step_of_stage hr ((decode_eq_ok_iff s.stage i).1 hi).symm

/-- Settles O8: with `start` low the code written is the one that stands there. -/
theorem idleWaitsForStart : Obligations.IdleWaitsForStart :=
  ⟨fun _ => rfl, fun _ hs hr hstart => step_wait_self (.inl rfl) hs hr hstart⟩

/-- Settles O9: with `start` low the code written is the one that stands there. -/
theorem doneKeepsResultsUntilStart : Obligations.DoneKeepsResultsUntilStart := by
  refine ⟨fun _ => rfl, fun s hs hr hstart => ⟨step_wait_self (.inr rfl) hs hr hstart, ?_⟩⟩
  simp [doneOut, hs]

/-- Settles O10: FAULT writes the code that stands there, and reset goes to IDLE. -/
theorem faultStateStaysUntilReset : Obligations.FaultStateStaysUntilReset := by
  refine ⟨fun _ => rfl, fun s hs => ⟨fun hr => ?_, ?_⟩, fun s _ hr => ⟨_, step_of_rst hr, rfl⟩⟩
  · obtain ⟨t, hstep, he⟩ := step_next_of_stage (i := .fault) hr hs
    rwa [exec_fault_self hs he] at hstep
  · simp [doneOut, busy, faultOut, Completed, hs]

/-- Settles O11: the registers LOAD writes by its definition; the form of the variant input selects the entry. -/
theorem loadLatchesTheInputs : Obligations.LoadLatchesTheInputs := by
  intro s
  refine ⟨loadEffect Config.params s, rfl, rfl, ?_, rfl, ?_, rfl, rfl, rfl⟩
  · cases hv : s.pins.variantI with
    | index v => by_cases h0 : v = 0#1 <;> simp [loadEffect, Reg.write, configInput, variantOfBit, hv, h0]
    | record c => simp [loadEffect, Reg.write, configInput, hv]
  · simp [NoStageOutputs, loadEffect]

end Sys2Proof.Machine
end

section
/-! PROOFS. The Masker (41_masker.md): the correction of bit 23 and the XOR with the mask. -/

namespace Sys2Proof.Machine

/-! ### The correction -/

/-- The bit of flag h alone. -/
theorem and_bitH (rec : Rec40) : rec &&& (1#40 <<< 23) = if rec.getLsbD 23 then 1#40 <<< 23 else 0#40 :=
  BitVec.and_twoPow rec 23

/-- The second form of R77: clearing bit 23 is XOR of the bit with itself. -/
theorem corrected_eq_xor_bitH {cfg : VariantConfig} (h : cfg.hclr = true) (rec : Rec40) :
    corrected rec cfg .AUTH = rec ^^^ (rec &&& (1#40 <<< 23)) := by
  apply BitVec.eq_of_getLsbD_eq
  intro i hi
  have hbit : (1#40 <<< 23).getLsbD i = (decide (23 < 40) && decide (23 = i)) := BitVec.getLsbD_twoPow 23 i
  rw [getLsbD_corrected _ _ _ hi, BitVec.getLsbD_xor, BitVec.getLsbD_and, hbit, h]
  by_cases h23 : i = 23
  · simp [h23]
  · simp [h23, Ne.symm h23]

/-- The correction changes a record only where it applies and finds bit 23 set. -/
theorem corrected_eq_self_iff (rec : Rec40) (cfg : VariantConfig) (mode : Mode) :
    corrected rec cfg mode = rec ↔ (cfg.hclr = true → mode = .AUTH → rec.getLsbD 23 = false) := by
  by_cases hc : cfg.hclr = true ∧ mode = .AUTH
  · obtain ⟨hclr, rfl⟩ := hc
    have hxor := BitVec.xor_right_inj rec (x := rec &&& (1#40 <<< 23)) (y := 0#40)
    rw [BitVec.xor_zero] at hxor
    rw [corrected_eq_xor_bitH hclr, hxor, and_bitH]
    cases rec.getLsbD 23 <;> simp [hclr]
  · simpa [corrected_of_not hc] using fun hclr hmode => absurd ⟨hclr, hmode⟩ hc

/-- Where the correction applies it equals the toggle of bit 23 exactly on the records whose bit 23 is set (R77). -/
theorem corrected_eq_toggle_iff {cfg : VariantConfig} (h : cfg.hclr = true) (rec : Rec40) :
    corrected rec cfg .AUTH = rec ^^^ (1#40 <<< 23) ↔ rec.getLsbD 23 = true := by
  rw [corrected_eq_xor_bitH h, BitVec.xor_right_inj, and_bitH]
  cases rec.getLsbD 23 <;> simp

/-- Where the correction applies, two records have one correction exactly when they agree in every bit but 23. -/
theorem corrected_eq_corrected_iff {cfg : VariantConfig} (h : cfg.hclr = true) (a b : Rec40) :
    corrected a cfg .AUTH = corrected b cfg .AUTH ↔ ∀ i, i < 40 → i ≠ 23 → a.getLsbD i = b.getLsbD i := by
  constructor
  · intro hab i hi h23
    have hbit := congrArg (·.getLsbD i) hab
    simpa [getLsbD_corrected _ _ _ hi, h23] using hbit
  · intro hab
    apply BitVec.eq_of_getLsbD_eq
    intro i hi
    rw [getLsbD_corrected _ _ _ hi, getLsbD_corrected _ _ _ hi, h]
    by_cases h23 : i = 23
    · simp [h23]
    · rw [hab i hi h23]

/-! ### The XOR with the mask -/

theorem getLsbD_maskF (mask rec : Rec40) (cfg : VariantConfig) (mode : Mode) {i : Nat} (h : i < 40) :
    (maskF mask rec cfg mode).getLsbD i
      = ((rec.getLsbD i && !(decide (i = 23) && cfg.hclr && decide (mode = .AUTH))) ^^ mask.getLsbD i) := by
  rw [maskF, BitVec.getLsbD_xor, getLsbD_corrected _ _ _ h]

/-- XOR with the mask a second time leaves the correction (R79). -/
theorem maskF_xor_mask (mask rec : Rec40) (cfg : VariantConfig) (mode : Mode) :
    maskF mask rec cfg mode ^^^ mask = corrected rec cfg mode := by
  rw [maskF, BitVec.xor_assoc, BitVec.xor_self, BitVec.xor_zero]

theorem maskF_eq_maskF_iff (mask a b : Rec40) (cfg : VariantConfig) (mode : Mode) :
    maskF mask a cfg mode = maskF mask b cfg mode ↔ corrected a cfg mode = corrected b cfg mode :=
  BitVec.xor_left_inj mask

theorem maskF_of_corrected_eq_self {rec : Rec40} {cfg : VariantConfig} {mode : Mode}
    (h : corrected rec cfg mode = rec) (mask : Rec40) : maskF mask rec cfg mode = rec ^^^ mask := by
  rw [maskF, h]

/-- Without the correction a second masking undoes the first. -/
theorem maskF_involutive {cfg : VariantConfig} {mode : Mode} (h : ¬(cfg.hclr = true ∧ mode = .AUTH)) (mask : Rec40) :
    Function.Involutive fun rec => maskF mask rec cfg mode := by
  intro rec
  calc maskF mask (maskF mask rec cfg mode) cfg mode
      = maskF mask rec cfg mode ^^^ mask := maskF_of_corrected_eq_self (corrected_of_not h _) mask
    _ = corrected rec cfg mode := maskF_xor_mask mask rec cfg mode
    _ = rec := corrected_of_not h rec

/-! ### The obligations -/

/-- Settles O13: the bits of `maskF` at the registers' values. -/
theorem maskWritesTheMaskedRecord : Obligations.MaskWritesTheMaskedRecord := by
  refine ⟨fun s => ⟨_, rfl, fun i hi => getLsbD_maskF _ _ _ _ hi⟩, fun cfg mode h => ?_⟩
  have hc : corrected 0xFFFFFFFFFF#40 cfg mode = 0xFFFFFFFFFF#40 := corrected_of_not (by simp [h]) _
  rw [maskF_of_corrected_eq_self hc]
  decide

/-- Settles O36: the correction bit by bit, and as the XOR of bit 23 with itself. -/
theorem correctionForcesBitHToZero : Obligations.CorrectionForcesBitHToZero := by
  refine ⟨fun rec cfg => ⟨corrected_of_not (by simp) rec, fun h => corrected_of_not (by simp [h]) rec⟩,
    fun rec cfg h => ?_⟩
  refine ⟨?_, fun i h23 => ?_, corrected_eq_xor_bitH h rec, corrected_eq_toggle_iff h rec⟩
  · rw [getLsbD_corrected _ _ _ (by decide)]
    simp [h]
  · by_cases hi : i < 40
    · simp [getLsbD_corrected _ _ _ hi, h23]
    · rw [BitVec.getLsbD_of_ge _ _ (by omega), BitVec.getLsbD_of_ge _ _ (by omega)]

/-- Settles O37: the mask cancels, so each clause is about the correction alone. -/
theorem maskIsAnInvolutionUpToBitH : Obligations.MaskIsAnInvolutionUpToBitH := by
  intro mask cfg mode
  refine ⟨fun rec => maskF_xor_mask mask rec cfg mode, ?_, fun h => ?_, fun h => (maskF_involutive h mask).bijective, ?_⟩
  · have hzero : corrected 0#40 cfg mode = 0#40 := (corrected_eq_self_iff _ _ _).2 (by simp)
    rw [maskF_of_corrected_eq_self hzero, BitVec.zero_xor]
  · rw [maskF_of_corrected_eq_self ((corrected_eq_self_iff _ _ _).2 h), BitVec.xor_self]
  · rintro hclr rfl a b
    rw [maskF_eq_maskF_iff, corrected_eq_corrected_iff hclr]

end Sys2Proof.Machine
end

section
/-! PROOFS. The ChecksumCalculator (42_checksum.md): checksum1 as a bit count, checksum2 as a nibble sum, and what a rotation
keeps of them. -/

namespace Sys2Proof.Machine

/-! ### checksum1 -/

theorem popcount_eq_bitCount (m : Rec40) : popcount m = bitCount m := popcount_eq_length m

theorem checksum1_eq_ofNat_bitCount (m : Rec40) : checksum1 m = BitVec.ofNat 3 (bitCount m) := by
  rw [checksum1, popcount_eq_bitCount]

theorem toNat_checksum1 (m : Rec40) : (checksum1 m).toNat = bitCount m % 8 := by
  rw [checksum1_eq_ofNat_bitCount, BitVec.toNat_ofNat]

/-! ### The twelve groups of the zero-extended record -/

/-- The two leading groups hold the extension alone (R83). -/
theorem group_setWidth_eq_zero (m : Rec40) {i : Nat} (hi : i < 2) : group 4 (m.setWidth 48) i = 0#4 := by
  apply BitVec.eq_of_getLsbD_eq
  intro j hj
  have hout : m.getLsbD (48 - 4 * (i + 1) + j) = false := BitVec.getLsbD_of_ge _ _ (by omega)
  simp [group, hout]

/-- The other ten groups are the nibbles of the record (R83). -/
theorem group_setWidth_add_two (m : Rec40) {i : Nat} (hi : i < 10) : group 4 (m.setWidth 48) (i + 2) = nibOf m i := by
  have hpos : 48 - 4 * (i + 2 + 1) = 40 - 4 * (i + 1) := by omega
  apply BitVec.eq_of_toNat_eq
  rw [nibOf, toNat_group, toNat_group, BitVec.toNat_setWidth_of_le (by decide), hpos]

/-! ### checksum2 -/

theorem toNat_nibOf (m : Rec40) {i : Nat} (hi : i < 10) : (nibOf m i).toNat = nibbleAt m i := by
  have hpow : 2 ^ (40 - 4 * (i + 1)) = 16 ^ (9 - i) := by
    rw [show 40 - 4 * (i + 1) = 4 * (9 - i) by omega, Nat.pow_mul]
  rw [nibOf, toNat_group, hpow]
  rfl

theorem sum_nibOf (m : Rec40) : ((List.range 10).map fun i => (nibOf m i).toNat).sum = nibbleSum m := by
  rw [nibbleSum, List.map_congr_left fun i hi => toNat_nibOf m (List.mem_range.1 hi)]

/-- Twelve groups or ten nibbles: the sum is the same (R83). -/
theorem sum_groups_eq_nibbleSum (m : Rec40) :
    ((List.range 12).map fun i => (group 4 (m.setWidth 48) i).toNat).sum = nibbleSum m := by
  have hrange : List.range 12 = 0 :: 1 :: (List.range 10).map (· + 2) := rfl
  have htail : (List.range 10).map (fun i => (group 4 (m.setWidth 48) (i + 2)).toNat)
      = (List.range 10).map fun i => (nibOf m i).toNat :=
    List.map_congr_left fun i hi => by rw [group_setWidth_add_two m (List.mem_range.1 hi)]
  rw [hrange, List.map_cons, List.map_cons, List.map_map, List.sum_cons, List.sum_cons,
    group_setWidth_eq_zero m (by decide), group_setWidth_eq_zero m (by decide), ← sum_nibOf, ← htail]
  simp [Function.comp_def]

theorem checksum2_eq_ofNat_nibbleSum (m : Rec40) : checksum2 m = BitVec.ofNat 5 (nibbleSum m) := by
  rw [checksum2, sum_groups_eq_nibbleSum]

theorem toNat_checksum2 (m : Rec40) : (checksum2 m).toNat = nibbleSum m % 32 := by
  rw [checksum2_eq_ofNat_nibbleSum, BitVec.toNat_ofNat]

/-- An accumulator of `w` bits that wraps at every addition holds the exact sum reduced once, since reduction modulo `2 ^ w`
commutes with addition (R82). -/
theorem foldl_add_setWidth {α : Type} {k w : Nat} (f : α → BitVec k) (l : List α) (acc : BitVec w) :
    l.foldl (fun acc i => acc + (f i).setWidth w) acc = acc + BitVec.ofNat w (l.map fun i => (f i).toNat).sum := by
  induction l generalizing acc with
  | nil => simp
  | cons i l ih =>
    rw [List.foldl_cons, ih, List.map_cons, List.sum_cons, BitVec.ofNat_add, BitVec.ofNat_toNat, BitVec.add_assoc]

theorem checksum2_eq_foldl (m : Rec40) :
    checksum2 m = (List.range 10).foldl (fun acc i => acc + (nibOf m i).setWidth 5) 0#5 := by
  rw [foldl_add_setWidth, BitVec.zero_add, sum_nibOf, checksum2_eq_ofNat_nibbleSum]

/-! ### The bit count of a rotation -/

/-- Shifting the positions `0` to `n - 1` around the circle rotates their list. -/
theorem map_add_mod_range (n a : Nat) : ((List.range n).map fun i => (i + a) % n) = (List.range n).rotate a := by
  apply List.ext_getElem
  · simp
  · intro i h₁ h₂
    simp [List.getElem_rotate]

/-- A rotation permutes the bits (R85, R87). -/
theorem bitCount_rotateRight (m : Rec40) (a : Check2) : bitCount (rotateRight m a) = bitCount m := by
  have hbits : (List.range 40).filter (fun i => (rotateRight m a).getLsbD i)
      = (List.range 40).filter fun i => m.getLsbD ((i + a.toNat) % 40) :=
    List.filter_congr fun i hi => getLsbD_rotateRight m a (List.mem_range.1 hi)
  calc bitCount (rotateRight m a)
      = ((List.range 40).filter fun i => m.getLsbD ((i + a.toNat) % 40)).length := congrArg List.length hbits
    _ = (((List.range 40).map fun i => (i + a.toNat) % 40).filter fun i => m.getLsbD i).length := by
        rw [List.filter_map, List.length_map, Function.comp_def]
    _ = (((List.range 40).rotate a.toNat).filter fun i => m.getLsbD i).length := by rw [map_add_mod_range]
    _ = bitCount m := ((List.rotate_perm _ _).filter _).length_eq

/-! ### The obligations -/

/-- Settles O14: the checksums of the masked record, each as the number its rule names. -/
theorem csumWritesBothChecksums : Obligations.CsumWritesBothChecksums :=
  ⟨fun s => ⟨checksum1 s.m.val, checksum2 s.m.val, rfl, toNat_checksum1 s.m.val, toNat_checksum2 s.m.val⟩, by decide⟩

/-- Settles O38: the two extension groups add nothing, and the reduction is once or at every addition. -/
theorem checksum2TwelveGroupsOrTen : Obligations.Checksum2TwelveGroupsOrTen := by
  refine ⟨fun m => ⟨group_setWidth_eq_zero m (by decide), group_setWidth_eq_zero m (by decide),
    fun i hi => group_setWidth_add_two m hi, sum_groups_eq_nibbleSum m, toNat_checksum2 m, checksum2_eq_foldl m⟩,
    fun m => ⟨toNat_checksum1 m, fun h => ?_, fun h => ?_⟩, by decide⟩
  · rw [checksum1_eq_ofNat_bitCount]
    rcases h with h | h | h | h <;> rw [h] <;> rfl
  · rw [checksum1_eq_ofNat_bitCount, h]

/-- Settles O39: the bit count decides checksum1; the nibble sum of 1 is not that of its rotation by 1. -/
theorem rotationKeepsChecksum1Only : Obligations.RotationKeepsChecksum1Only := by
  refine ⟨fun m a => ⟨bitCount_rotateRight m a, ?_⟩, by decide⟩
  rw [checksum1_eq_ofNat_bitCount, checksum1_eq_ofNat_bitCount, bitCount_rotateRight]

end Sys2Proof.Machine
end

section
/-! PROOFS. The Rotator (43_rotator.md): the bits of a rotation, its value as a number, and the inverse rotation. -/

namespace Sys2Proof.Machine

/-! ### The bits of a rotation -/

/-- A value whose 40 bits are all the same is fixed by every rotation (R90). -/
theorem rotateRight_eq_self_of_bits {m : Rec40} {b : Bool} (hbits : ∀ i, i < 40 → m.getLsbD i = b) (a : Check2) :
    rotateRight m a = m := by
  apply BitVec.eq_of_getLsbD_eq
  intro i hi
  rw [getLsbD_rotateRight m a hi, hbits i hi, hbits _ (Nat.mod_lt _ (by decide))]

theorem rotateRight_zero (m : Rec40) : rotateRight m 0#5 = m := by
  apply BitVec.eq_of_getLsbD_eq
  intro i hi
  rw [getLsbD_rotateRight m 0#5 hi, BitVec.toNat_zero, Nat.add_zero, Nat.mod_eq_of_lt hi]

theorem rotateLeft_zero (x : Rec40) : rotateLeft x 0#5 = x := by
  apply BitVec.eq_of_getLsbD_eq
  intro i hi
  rw [getLsbD_rotateLeft x 0#5 hi, BitVec.toNat_zero, Nat.sub_zero, Nat.add_mod_right, Nat.mod_eq_of_lt hi]

/-! ### The inverse rotation -/

/-- `k` positions up and `40 - k` positions up make the full circle, in either order. -/
theorem add_mod_circle {i k l : Nat} (hi : i < 40) (hkl : k + l = 40) : ((i + k) % 40 + l) % 40 = i := by
  rw [Nat.mod_add_mod, Nat.add_assoc, hkl, Nat.add_mod_right, Nat.mod_eq_of_lt hi]

theorem rotateRight_rotateLeft (x : Rec40) (k : Check2) : rotateRight (rotateLeft x k) k = x := by
  have hk : k.toNat < 32 := k.isLt
  apply BitVec.eq_of_getLsbD_eq
  intro i hi
  rw [getLsbD_rotateRight _ k hi, getLsbD_rotateLeft x k (Nat.mod_lt _ (by decide)), add_mod_circle hi (by omega)]

theorem rotateLeft_rotateRight (x : Rec40) (k : Check2) : rotateLeft (rotateRight x k) k = x := by
  have hk : k.toNat < 32 := k.isLt
  apply BitVec.eq_of_getLsbD_eq
  intro i hi
  rw [getLsbD_rotateLeft _ k hi, getLsbD_rotateRight x k (Nat.mod_lt _ (by decide)), add_mod_circle hi (by omega)]

/-! ### The rotation as a number -/

/-- The bits that leave at the bottom, moved up to the top, stay within the width. -/
theorem mod_mul_two_pow_lt (n : Nat) {a w : Nat} (ha : a ≤ w) : n % 2 ^ a * 2 ^ (w - a) < 2 ^ w :=
  calc n % 2 ^ a * 2 ^ (w - a) < 2 ^ a * 2 ^ (w - a) :=
        Nat.mul_lt_mul_of_pos_right (Nat.mod_lt _ (Nat.two_pow_pos a)) (Nat.two_pow_pos _)
    _ = 2 ^ w := by rw [← Nat.pow_add, Nat.add_sub_cancel' ha]

/-- The shift form (R87): the two parts have no position in common, so their disjunction is their sum. -/
theorem toNat_rotateRight (m : Rec40) (a : Check2) :
    (rotateRight m a).toNat = m.toNat / 2 ^ a.toNat + (m.toNat % 2 ^ a.toNat) * 2 ^ (40 - a.toNat) := by
  have ha : a.toNat ≤ 40 := by have := a.isLt; omega
  have hmask : 2 ^ a.toNat - 1 < 2 ^ 40 :=
    Nat.lt_of_lt_of_le (Nat.sub_lt (Nat.two_pow_pos _) Nat.one_pos) (Nat.pow_le_pow_right (by decide) ha)
  have hlow : m.toNat / 2 ^ a.toNat < 2 ^ (40 - a.toNat) := by
    rw [Nat.div_lt_iff_lt_mul (Nat.two_pow_pos _), ← Nat.pow_add, Nat.sub_add_cancel ha]
    exact m.isLt
  have hhigh := mod_mul_two_pow_lt m.toNat ha
  rw [rotateRight, BitVec.toNat_or, BitVec.toNat_ushiftRight, BitVec.toNat_shiftLeft, BitVec.toNat_and,
    BitVec.toNat_ofNat, Nat.mod_eq_of_lt hmask, Nat.and_two_pow_sub_one_eq_mod, Nat.shiftLeft_eq,
    Nat.mod_eq_of_lt hhigh, Nat.shiftRight_eq_div_pow, Nat.or_comm, Nat.mul_comm,
    ← Nat.two_pow_add_eq_or_of_lt hlow, Nat.add_comm]

/-! ### The rotation amount -/

/-- The amount is the nibble sum modulo 32 (R82, R88). -/
theorem checksum2_eq_zero_iff (m : Rec40) : checksum2 m = 0#5 ↔ nibbleSum m % 32 = 0 := by
  rw [BitVec.toNat_eq, toNat_checksum2, BitVec.toNat_zero]

/-! ### The obligations -/

/-- Settles O15: ROT is the rotation, read bit by bit. -/
theorem rotrRotatesRightByChecksum2 : Obligations.RotrRotatesRightByChecksum2 :=
  ⟨fun s => ⟨rotateRight s.m.val s.c2.val, rfl, fun _ hi => getLsbD_rotateRight _ _ hi⟩, by decide⟩

/-- Settles O40: the bitwise form, the shift form and the kept bit count. -/
theorem rotateRightMovesLowBitsToTheTop : Obligations.RotateRightMovesLowBitsToTheTop :=
  fun m a => ⟨fun _ hi => getLsbD_rotateRight m a hi, toNat_rotateRight m a, bitCount_rotateRight m a⟩

/-- Settles O41: equal bits stay equal under a rotation, and a nibble sum that 32 divides gives the amount 0. -/
theorem rotateByZeroAndCornerCases : Obligations.RotateByZeroAndCornerCases := by
  refine ⟨rotateRight_zero, fun a => ⟨?_, ?_⟩, by decide, by decide, by decide, by decide, by decide, fun m h => ?_⟩
  · exact rotateRight_eq_self_of_bits (b := false) (by decide) a
  · exact rotateRight_eq_self_of_bits (b := true) (by decide) a
  · rw [checksum2_eq_zero_iff]
    omega

/-- Settles O42: the two rotations undo each other, and the bitwise form of `rotate_left`. -/
theorem rotateLeftUndoesRotateRight : Obligations.RotateLeftUndoesRotateRight :=
  fun x k => ⟨rotateRight_rotateLeft x k, rotateLeft_rotateRight x k, rotateRight_zero x, rotateLeft_zero x,
    fun _ hi => getLsbD_rotateLeft x k hi⟩

end Sys2Proof.Machine
end

section
/-! PROOFS. The ChecksumEmbedder (44_embedder.md): the embedded value as a number, and its fields by truncation. -/

namespace Sys2Proof.Machine

/-! ### The fields of the embedded value -/

/-- Bits 47..8 are the rotated record (R94). -/
theorem extractLsb'_embedF_rot (rot : Rec40) (c1 : Check1) (c2 : Check2) :
    (embedF rot c1 c2).extractLsb' 8 40 = rot := by
  rw [embedF_eq_append]
  exact BitVec.extractLsb'_append_eq_left

/-- Bits 7..5 are checksum1: they lie in the checksum byte and are its upper part (R94). -/
theorem extractLsb'_embedF_c1 (rot : Rec40) (c1 : Check1) (c2 : Check2) :
    (embedF rot c1 c2).extractLsb' 5 3 = c1 := by
  rw [embedF_eq_append, BitVec.extractLsb'_append_eq_of_add_le (by decide)]
  exact BitVec.extractLsb'_append_eq_left

/-- Bits 4..0 are checksum2: they lie in the checksum byte and are its lower part (R94). -/
theorem extractLsb'_embedF_c2 (rot : Rec40) (c1 : Check1) (c2 : Check2) :
    (embedF rot c1 c2).extractLsb' 0 5 = c2 := by
  rw [embedF_eq_append, BitVec.extractLsb'_append_eq_of_add_le (by decide)]
  exact BitVec.extractLsb'_append_eq_right

/-! ### The obligations -/

/-- Settles O16: EMB is the embedded value, read as a number by `toNat_embedF`. -/
theorem embedAppendsTheChecksums : Obligations.EmbedAppendsTheChecksums :=
  ⟨fun s => ⟨embedF s.rot.val s.c1.val s.c2.val, rfl, toNat_embedF s.rot.val s.c1.val s.c2.val⟩, by decide⟩

/-- Settles O43: each field by its own slice lemma; the corner cases by evaluation. -/
theorem embeddedFieldsAreRecoverable : Obligations.EmbeddedFieldsAreRecoverable :=
  ⟨fun rot c1 c2 =>
      ⟨extractLsb'_embedF_rot rot c1 c2, extractLsb'_embedF_c1 rot c1 c2, extractLsb'_embedF_c2 rot c1 c2⟩,
    by decide⟩

end Sys2Proof.Machine
end

section
/-! PROOFS. The ByteMixer (45_bytemixer.md): its lanes as numbers, the carries that the 48-bit sum has and the mixer drops,
and the lane-wise inverse. -/

namespace Sys2Proof.Machine

/-! ### Bytes as numbers -/

/-- Byte `i` of a 48-bit value is taken by division, most significant first (R7, R96). -/
theorem toNat_byteOf (v : Emb48) {i : Nat} (hi : i < 6) : (byteOf v i).toNat = v.toNat / 256 ^ (5 - i) % 256 := by
  have hpow : 2 ^ (48 - 8 * (i + 1)) = 256 ^ (5 - i) := by
    rw [show 48 - 8 * (i + 1) = 8 * (5 - i) by omega, Nat.pow_mul]
  rw [byteOf, toNat_group, hpow]
  rfl

/-- The bytes listed in R59 are the lanes of `MIXK`. -/
theorem mixBytes_eq_map : mixBytes = (List.range 6).map fun i => (byteOf mixK i).toNat := by decide

theorem mixBytes_getElem?_eq_some_iff {i k : Nat} :
    mixBytes[i]? = some k ↔ i < 6 ∧ (byteOf mixK i).toNat = k := by
  simp [mixBytes_eq_map, List.getElem?_eq_some_iff]

/-- One lane of the mixer is an 8-bit adder (R97). -/
theorem toNat_byteOf_mixF (e : Emb48) {i : Nat} (hi : i < 6) :
    (byteOf (mixF e) i).toNat = ((byteOf e i).toNat + (byteOf mixK i).toNat) % 256 := by
  rw [byteOf_mixF e hi, BitVec.toNat_add]

/-! ### The carries of the 48-bit sum -/

/-- The 48-bit sum of `x` and `y` has a carry into lane `i`: the parts below the lane sum to at least the lane's weight. -/
def CarryInto (x y : Emb48) (i : Nat) : Prop :=
  256 ^ (5 - i) ≤ x.toNat % 256 ^ (5 - i) + y.toNat % 256 ^ (5 - i)

/-- Low parts that sum to less than the weight `p` do not reach the digits above them. -/
theorem mul_le_low_add_iff {b p l₁ l₂ d₁ d₂ : Nat} (h : l₁ + l₂ < p) :
    p * b ≤ l₁ + p * d₁ + (l₂ + p * d₂) ↔ b ≤ d₁ + d₂ := by
  have hp : 0 < p := Nat.zero_lt_of_lt h
  rw [Nat.add_add_add_comm, ← Nat.mul_add, Nat.mul_comm p b, ← Nat.le_div_iff_mul_le hp, Nat.add_mul_div_left _ _ hp,
    Nat.div_eq_of_lt h, Nat.zero_add]

/-- No lane stands below the last one. -/
theorem not_carryInto_five (x y : Emb48) : ¬CarryInto x y 5 := by
  simp [CarryInto, Nat.mod_one]

/-- A lane without a carry in passes a carry on exactly when its own two bytes overflow. -/
theorem carryInto_iff_of_not_succ {x y : Emb48} {i : Nat} (hi : i < 5) (h : ¬CarryInto x y (i + 1)) :
    CarryInto x y i ↔ 256 ≤ (byteOf x (i + 1)).toNat + (byteOf y (i + 1)).toNat := by
  have hexp : 5 - i = 5 - (i + 1) + 1 := by omega
  rw [CarryInto, hexp, Nat.mod_pow_succ, Nat.mod_pow_succ, Nat.pow_succ, toNat_byteOf x (Nat.succ_lt_succ hi),
    toNat_byteOf y (Nat.succ_lt_succ hi)]
  exact mul_le_low_add_iff (Nat.lt_of_not_le h)

/-- Lane `i` of the 48-bit sum: the top of the sum that 48 bits drop lies above every lane. -/
theorem toNat_byteOf_add (x y : Emb48) {i : Nat} (hi : i < 6) :
    (byteOf (x + y) i).toNat = (x.toNat + y.toNat) / 256 ^ (5 - i) % 256 := by
  have hsplit : 2 ^ 48 = 256 ^ (5 - i) * 256 ^ (i + 1) := by
    rw [← Nat.pow_add, show 5 - i + (i + 1) = 6 by omega]
    rfl
  rw [toNat_byteOf _ hi, BitVec.toNat_add, hsplit, Nat.mod_mul_right_div_self,
    Nat.mod_mod_of_dvd _ (Dvd.intro_left _ (Nat.pow_succ ..).symm)]

/-- Lane `i` of the 48-bit sum is the sum of the two lanes exactly when no carry enters it. -/
theorem byteOf_add_eq_iff (x y : Emb48) {i : Nat} (hi : i < 6) :
    byteOf (x + y) i = byteOf x i + byteOf y i ↔ ¬CarryInto x y i := by
  rw [BitVec.toNat_eq, toNat_byteOf_add x y hi, BitVec.toNat_add, toNat_byteOf x hi, toNat_byteOf y hi,
    Nat.add_div (Nat.pow_pos (by decide))]
  unfold CarryInto
  split_ifs with hcarry
  · simp only [hcarry, not_true_eq_false, iff_false]
    omega
  · simp only [hcarry, not_false_eq_true, iff_true]
    omega

/-- No lane has a carry in exactly when none of lanes 1 to 5 overflows: read downwards lane by lane, and upwards from
lane 5, which has none. -/
theorem forall_not_carryInto_iff (x y : Emb48) :
    (∀ i, i < 6 → ¬CarryInto x y i) ↔ ∀ i, 1 ≤ i → i < 6 → (byteOf x i).toNat + (byteOf y i).toNat < 256 := by
  constructor
  · intro hcarry i h1 h6
    obtain ⟨j, rfl⟩ := Nat.exists_eq_add_of_le' h1
    have hstep := carryInto_iff_of_not_succ (Nat.lt_of_succ_lt_succ h6) (hcarry (j + 1) h6)
    exact Nat.lt_of_not_le (mt hstep.2 (hcarry j (Nat.lt_of_succ_lt h6)))
  · intro hlanes i h6
    induction Nat.le_of_lt_succ h6 using Nat.decreasingInduction with
    | self => exact not_carryInto_five x y
    | of_succ j hj ih =>
      rw [carryInto_iff_of_not_succ hj (ih (by omega))]
      exact Nat.not_le.2 (hlanes (j + 1) (by omega) (by omega))

/-- The mixed value is the 48-bit sum exactly when that sum has no carry into any lane (R97). -/
theorem mixF_eq_add_iff (e : Emb48) : mixF e = e + mixK ↔ ∀ i, i < 6 → ¬CarryInto e mixK i := by
  constructor
  · intro h i hi
    rw [← byteOf_add_eq_iff e mixK hi, ← h, byteOf_mixF e hi]
  · intro h
    refine ext_byteOf fun i hi => ?_
    rw [byteOf_mixF e hi, (byteOf_add_eq_iff e mixK hi).2 (h i hi)]

/-! ### The lane-wise inverse -/

/-- Subtraction modulo 256 in each lane undoes the mixing (R99). -/
theorem unmixF_mixF (e : Emb48) : unmixF (mixF e) = e := by
  refine ext_byteOf fun i hi => ?_
  rw [byteOf_unmixF _ hi, byteOf_mixF e hi, BitVec.add_sub_cancel]

theorem mixF_unmixF (y : Emb48) : mixF (unmixF y) = y := by
  refine ext_byteOf fun i hi => ?_
  rw [byteOf_mixF _ hi, byteOf_unmixF y hi, BitVec.sub_add_cancel]

theorem mixF_bijective : Function.Bijective mixF :=
  ⟨Function.LeftInverse.injective unmixF_mixF, Function.RightInverse.surjective mixF_unmixF⟩

/-! ### The obligations -/

/-- Settles O17: MIXD is the mixed value, whose lanes are read as numbers against the listed bytes of `MIXK`. -/
theorem mixAddsTheConstantByteByByte : Obligations.MixAddsTheConstantByteByByte := by
  refine ⟨fun s => ⟨mixF s.emb.val, rfl, fun i k hk => ?_⟩, by decide⟩
  obtain ⟨hi, rfl⟩ := mixBytes_getElem?_eq_some_iff.1 hk
  rw [← toNat_byteOf _ hi, ← toNat_byteOf _ hi, toNat_byteOf_mixF _ hi]

/-- Settles O45: the lane law, and the carries that the 48-bit sum has and the mixer drops. -/
theorem mixLanesDoNotCarry : Obligations.MixLanesDoNotCarry :=
  ⟨fun e _ hi => toNat_byteOf_mixF e hi, fun e => (mixF_eq_add_iff e).trans (forall_not_carryInto_iff e mixK), by decide⟩

/-- Settles O46: the two one-sided inverses; the corner cases by evaluation. -/
theorem mixIsUndoneByLaneSubtraction : Obligations.MixIsUndoneByLaneSubtraction :=
  ⟨fun e => ⟨unmixF_mixF e, mixF_unmixF e⟩, mixF_bijective, by decide⟩

end Sys2Proof.Machine
end

section
/-! PROOFS. The SymbolEncoder (46_symbol_encoder.md): the two-bit codes of the mixed value, the symbols they are mapped
to, and the way back from a password to the corrected record. -/

namespace Sys2Proof.Machine

/-! ### The two-bit codes -/

/-- The 24 two-bit codes of a mixed value, in the order of the symbols (R100). -/
def codesOf (x : Emb48) : List Dibit := (List.range 24).map (dibitOf x)

/-- A 48-bit value is determined by its codes: four of them make each byte. -/
theorem codesOf_injective : Function.Injective codesOf := by
  intro x y h
  have hcode : ∀ j ∈ List.range 24, dibitOf x j = dibitOf y j := List.map_inj_left.1 h
  refine ext_byteOf fun i hi => ?_
  have hgroup (k : Nat) (hk : k < 4) : group 2 (byteOf x i) k = group 2 (byteOf y i) k := by
    rw [group_byteOf x hi hk, group_byteOf y hi hk, hcode _ (List.mem_range.2 (by omega))]
  rw [byte_eq_groups (byteOf x i), byte_eq_groups (byteOf y i), hgroup 0 (by decide), hgroup 1 (by decide),
    hgroup 2 (by decide), hgroup 3 (by decide)]

/-- The higher bit of code `j` (R100). -/
theorem getLsbD_one_dibitOf (x : Emb48) {j : Nat} (hj : j < 24) :
    (dibitOf x j).getLsbD 1 = x.getLsbD (47 - 2 * j) := by
  rw [getLsbD_dibitOf x hj (by decide), show 46 - 2 * j + 1 = 47 - 2 * j by omega]

/-- The lower bit of code `j` (R100). -/
theorem getLsbD_zero_dibitOf (x : Emb48) {j : Nat} (hj : j < 24) :
    (dibitOf x j).getLsbD 0 = x.getLsbD (46 - 2 * j) :=
  getLsbD_dibitOf x hj (by decide)

/-! ### The table and the sequence -/

/-- For either glyph of code `10` the four glyphs of a variant are distinct (R106). -/
theorem lut_injective {g : Glyph} (h : g = .B ∨ g = .T) : Function.Injective (lut g) := by
  have hcodes : ∀ j k : Dibit, lut g j = lut g k → j = k := by
    rcases h with rfl | rfl <;> decide
  exact fun j k => hcodes j k

theorem symbolsF_take_eq_map_codesOf (p : Params) (x : Emb48) (cfg : VariantConfig) (mode : Mode) :
    (symbolsF p x cfg mode).take 24 = (codesOf x).map (lut cfg.g10) := by
  rw [symbolsF_take, codesOf, List.map_map]
  rfl

/-- The first 24 symbols determine the mixed value, whatever the modes and the open parameters (R106). -/
theorem eq_of_symbolsF_take_eq {p q : Params} {x y : Emb48} {cfg : VariantConfig} {mode mode' : Mode}
    (hg : cfg.g10 = .B ∨ cfg.g10 = .T)
    (h : (symbolsF p x cfg mode).take 24 = (symbolsF q y cfg mode').take 24) : x = y := by
  rw [symbolsF_take_eq_map_codesOf, symbolsF_take_eq_map_codesOf] at h
  exact codesOf_injective ((lut_injective hg).list_map h)

/-! ### The buffer -/

theorem writeSymbols_eq_write {g : List Glyph} {x : Glyph} {i : Fin 25} (sym : Vector (Reg Glyph) 25)
    (h : g[i.val]? = some x) : (writeSymbols g sym)[i] = .write x := by
  obtain ⟨hi, -⟩ := List.getElem?_eq_some_iff.1 h
  rw [Reg.eq_write_iff, writeSymbols_held, decide_eq_true hi]
  exact ⟨rfl, Option.some.inj ((writeSymbols_val g sym i hi).symm.trans h)⟩

/-! ### From the password back to the record -/

/-- The masked record of a mixed value: the inverses of MIX, EMBED and ROTR in turn (R99, R94, R89). -/
def unmixedRecord (y : Emb48) : Rec40 :=
  rotateLeft ((unmixF y).extractLsb' 8 40) ((unmixF y).extractLsb' 0 5)

theorem unmixedRecord_mixedOf (m : Rec40) : unmixedRecord (mixedOf m) = m := by
  rw [unmixedRecord, mixedOf, unmixF_mixF, embeddedOf, extractLsb'_embedF_rot, extractLsb'_embedF_c2, rotatedOf,
    rotateLeft_rotateRight]

theorem mixedOf_injective : Function.Injective mixedOf := Function.LeftInverse.injective unmixedRecord_mixedOf

theorem passwordOf_eq_passwordOf_iff {p : Params} {cfg : VariantConfig} {mode : Mode}
    (hg : cfg.g10 = .B ∨ cfg.g10 = .T) (a b : Rec40) :
    passwordOf p a cfg mode = passwordOf p b cfg mode ↔ corrected a cfg mode = corrected b cfg mode := by
  rw [← maskF_eq_maskF_iff p.mask40]
  constructor
  · intro h
    exact mixedOf_injective (eq_of_symbolsF_take_eq hg (congrArg (List.take 24) h))
  · intro h
    simp only [passwordOf, h]

/-- Two calls of a well-formed configuration have one result exactly when the corrected records are one. -/
theorem encodeRecord_eq_encodeRecord_iff {cfg : VariantConfig} (hwf : cfg.wellFormed = true) (p : Params) (mode : Mode)
    (a b : Rec40) :
    encodeRecord p a cfg mode = encodeRecord p b cfg mode ↔ corrected a cfg mode = corrected b cfg mode := by
  obtain ⟨hg, -⟩ := (VariantConfig.wellFormed_iff cfg).1 hwf
  have hshape : cfg.shapeMatches = true := (Bool.and_eq_true_iff.1 hwf).2
  rw [← passwordOf_eq_passwordOf_iff hg, encodeRecord_eq, encodeRecord_eq, if_pos hshape, if_pos hshape]
  constructor
  · intro h
    exact congrArg EncodedPassword.symbols (Except.ok.inj h)
  · intro h
    rw [h]

/-! ### The obligations -/

/-- Settles O47: the table by evaluation, the mixed value by its codes. -/
theorem symbolsDetermineTheMixedValue : Obligations.SymbolsDetermineTheMixedValue :=
  ⟨by decide, fun _ hg => ⟨lut_injective hg, fun _ _ _ _ _ _ h => eq_of_symbolsF_take_eq hg h⟩⟩

/-- Settles O35: a call is one-to-one in the corrected record, and the correction is the Masker's. -/
theorem passwordDeterminesTheCorrectedRecord : Obligations.PasswordDeterminesTheCorrectedRecord := by
  intro p a b cfg hwf
  have hcall (mode : Mode) := encodeRecord_eq_encodeRecord_iff hwf p mode a b
  refine ⟨hcall, fun h => ?_, fun hclr => (hcall .AUTH).trans (corrected_eq_corrected_iff hclr a b)⟩
  have hdemo (rec : Rec40) : corrected rec cfg .DEMO = rec := corrected_of_not (by simp) rec
  rwa [hcall, hdemo, hdemo] at h

/-- Settles O48: the length of the sequence, and the codes of each corner value mapped by the table. -/
theorem passwordLengthAndSymbolCornerCases : Obligations.PasswordLengthAndSymbolCornerCases := by
  intro p cfg mode
  have hR : codesOf 0#48 = List.replicate 24 0#2 := by decide
  have hDash : codesOf 0xFFFFFFFFFFFF#48 = List.replicate 24 3#2 := by decide
  have hTen : codesOf 0xAAAAAAAAAAAA#48 = List.replicate 24 2#2 := by decide
  have hE : codesOf 0x555555555555#48 = List.replicate 24 1#2 := by decide
  have hAll : codesOf 0x1B1B1B1B1B1B#48 = (List.replicate 6 [0#2, 1#2, 2#2, 3#2]).flatten := by decide
  simp only [symbolsF_take_eq_map_codesOf, hR, hDash, hTen, hE, hAll]
  exact ⟨fun x => symbolsF_length p x cfg mode, rfl, rfl, rfl, rfl, rfl⟩

/-- Settles O18: the entries of the buffer are those of the sequence; the worked example is mapped code by code. -/
theorem symencMapsTheTwoBitCodes : Obligations.SymencMapsTheTwoBitCodes := by
  refine ⟨fun s => ⟨_, _, rfl, ?_, fun j hj => ?_, fun ht => ?_, fun ht => ?_⟩, fun p cfg mode hg ht => ?_⟩
  · rw [symbolsF_length]
    exact toNat_passwordLength s.cfg.val
  · refine (writeSymbols_eq_write _ (symbolsF_getElem?_lt _ _ _ _ hj)).trans ?_
    rw [lut_bits, getLsbD_one_dibitOf _ hj, getLsbD_zero_dibitOf _ hj]
    rfl
  · have hlast := symbolsF_getElem?_24 Config.params s.mixd.val s.cfg.val s.mode.val
    rw [if_pos ht] at hlast
    refine (writeSymbols_eq_write (i := 24) _ hlast).trans ?_
    cases s.mode.val <;> rfl
  · have hheld := writeSymbols_held (symbolsF Config.params s.mixd.val s.cfg.val s.mode.val) s.sym 24
    rw [symbolsF_length, VariantConfig.passwordLength, ht] at hheld
    exact hheld
  · have hlen : (symbolsF p 0x4E7C5F92C5A9#48 cfg mode).length ≤ 24 := by
      rw [symbolsF_length, VariantConfig.passwordLength, ht]
      decide
    rw [← List.take_of_length_le hlen, symbolsF_take_eq_map_codesOf, hg]
    decide

end Sys2Proof.Machine
end

section
/-! PROOFS. The GridLayout (47_grid_layout.md): the shape check, the flat index of a grid position and the way back, the
shapes of one line and of one column, and the host's views of one symbol sequence. -/

namespace Sys2Proof.Machine

/-! ### The shape check -/

theorem shapeOk_eq_true_iff (s : State) : shapeOk s = true ↔ s.cfg.val.rows * s.cfg.val.cols = s.len.val.toNat := by
  simp [shapeOk]

theorem toGrid_of_shape {symbols : List Glyph} {rows cols : Nat} (h : rows * cols = symbols.length) :
    toGrid symbols rows cols = .ok (gridRows symbols rows cols) := if_pos h

theorem toGrid_of_mismatch {symbols : List Glyph} {rows cols : Nat} (h : rows * cols ≠ symbols.length) :
    toGrid symbols rows cols = .error .shapeMismatch := if_neg h

/-! ### Grid positions and flat indices -/

/-- Entry `i` of the flat sequence stands at row `i % rows` and column `i / rows`: reading column by column gives the
sequence back (R109). -/
theorem gridRows_getElem?_mod_div {symbols : List Glyph} {rows cols i : Nat} (hs : rows * cols = symbols.length)
    (hi : i < symbols.length) :
    ((gridRows symbols rows cols)[i % rows]?.bind fun row => row[i / rows]?) = symbols[i]? := by
  rw [← hs] at hi
  have hrow : i % rows < rows := Nat.mod_lt i (Nat.pos_of_mul_pos_right (Nat.zero_lt_of_lt hi))
  have hcol : i / rows < cols := Nat.div_lt_of_lt_mul hi
  rw [gridRows_getElem? _ hs, if_pos ⟨hrow, hcol⟩, gridIndex, Nat.mod_add_div]

/-! ### One line, one column -/

/-- With one row the flat index is the column, so the line is the flat sequence (R115). -/
theorem gridRows_one_row (symbols : List Glyph) : gridRows symbols 1 symbols.length = [symbols] := by
  have hs : 1 * symbols.length = symbols.length := Nat.one_mul _
  have hline : gridRow symbols 1 symbols.length 0 = symbols := by
    refine List.ext_getElem (gridRow_length hs Nat.one_pos) fun c hc hc' => Option.some.inj ?_
    rw [← List.getElem?_eq_getElem, ← List.getElem?_eq_getElem, gridRow_getElem? hs Nat.one_pos hc', gridIndex,
      Nat.zero_add, Nat.one_mul]
  exact congrArg (fun line => [line]) hline

/-- With one column the flat index is the row, so every line is one symbol, in flat order (R115). -/
theorem gridRows_one_col (symbols : List Glyph) :
    gridRows symbols symbols.length 1 = symbols.map fun x => [x] := by
  refine List.ext_getElem (by rw [gridRows_length, List.length_map]) fun r hr _ => ?_
  rw [gridRows_length] at hr
  simp [gridRows, gridRow, gridIndex, hr]

/-! ### The obligations -/

/-- Settles O49: a grid that `to_grid` answers is the grid view of a matching shape, read position by position. -/
theorem gridIsFilledColumnByColumn : Obligations.GridIsFilledColumnByColumn := by
  intro symbols rows cols g hg
  obtain ⟨hs, rfl⟩ := toGrid_eq_ok hg
  refine ⟨gridRows_length symbols rows cols, length_of_mem_gridRows hs, fun r k hr hk => ?_,
    fun i hi => gridRows_getElem?_mod_div hs hi⟩
  have hentry := List.getElem?_eq_getElem (gridIndex_lt hs hr hk)
  exact ⟨_, by rw [gridRows_getElem? k hs, if_pos ⟨hr, hk⟩, hentry], hentry⟩

/-- Settles O50: the product of each shape against the length; 6 by 4 and 4 by 6 differ in the number of lines. -/
theorem gridCornerCases : Obligations.GridCornerCases := by
  refine ⟨fun symbols n hlen => ?_, fun symbols hlen => ?_, fun symbols hlen => ?_, fun symbols hlen => ?_,
    fun symbols hlen => ?_, fun symbols hlen => ?_⟩
  · exact ⟨toGrid_of_mismatch (by omega), toGrid_of_mismatch (by omega)⟩
  · exact toGrid_of_mismatch (by omega)
  · exact toGrid_of_mismatch (by omega)
  · rw [toGrid_of_shape (by omega), ← hlen, gridRows_one_row]
  · rw [toGrid_of_shape (by omega), ← hlen, gridRows_one_col]
  · refine ⟨_, _, toGrid_of_shape (by omega), toGrid_of_shape (by omega), fun heq => ?_⟩
    have hlines := congrArg List.length heq
    rw [gridRows_length, gridRows_length] at hlines
    omega

/-- Settles O53: a sequence read as a whole is read entry by entry, and the other views are functions of it. -/
theorem hostViewsAgree : Obligations.HostViewsAgree := by
  intro s w h
  obtain ⟨hsyms, -⟩ := passwordOut_eq_some h
  obtain ⟨-, -, hat⟩ := symbolsOut_eq_some hsyms
  exact ⟨hat, fun i => by rw [symOut, hat], gridAt_of_passwordOut h, by rw [textOut, h, Option.map_some]⟩

/-- Settles O19: the two branches of the shape check; the worked example by evaluation. -/
theorem gridChecksTheShape : Obligations.GridChecksTheShape := by
  refine ⟨fun s hshape => ?_, fun s hshape => ?_, by decide⟩
  · rw [exec_grid_eq, (shapeOk_eq_true_iff s).2 hshape]
    rfl
  · rw [exec_grid_eq, (shapeOk_eq_false_iff s).2 hshape]
    rfl

end Sys2Proof.Machine
end

section
/-! PROOFS. Exceptions, reset and hazards (60_exceptions.md, 70_reset_and_hazards.md): the host's reads outside DONE,
fault entry, the run in FAULT, the front end, and the password that a state in DONE shows. -/

namespace Sys2Proof.Machine

/-! ### The host's reads outside DONE -/

section
variable {s : State} (h : s.stage ≠ 9#4)
include h

theorem lenOut_not_done : lenOut s = none := hostReg_not_done h s.len

theorem symAt_not_done (i : Nat) : symAt s i = none := by
  rw [symAt, lenOut_not_done h]

theorem gridAt_not_done (r c : Nat) : gridAt s r c = none := by
  rw [gridAt, hostReg_not_done h]

theorem passwordOut_not_done : passwordOut s = none := by
  rw [passwordOut, symbolsOut, lenOut_not_done h]

theorem textOut_not_done : textOut s = none := by
  rw [textOut, passwordOut_not_done h, Option.map_none]

end

/-! ### Fault entry and FAULT -/

/-- The flag of a fault is bit code - 1 of ERR (R58, R122). -/
theorem getLsbD_errBit (f : Fault) {i : Nat} (hi : i < 2) : (errBit f).getLsbD i = decide (i + 1 = faultCode f) := by
  have hall : ∀ j : Fin 2, (errBit f).getLsbD j = decide (j.val + 1 = faultCode f) := by cases f <;> decide
  exact hall ⟨i, hi⟩

/-- No operation clears a flag of ERR: fault entry sets one and the others leave ERR alone (R132). -/
theorem exec_keeps_errFlag {i : Instr} {s t : State} {k : Nat} (h : exec i s = .next t)
    (hk : s.err.getLsbD k = true) : t.err.getLsbD k = true := by
  rcases exec_err h with herr | ⟨-, -, rfl⟩
  · rwa [herr]
  · rw [raise_err, BitVec.getLsbD_or, hk, Bool.true_or]

/-- In FAULT a step without reset does nothing (R69). -/
theorem step_fault_self {s : State} (hs : s.stage = 15#4) (hr : s.pins.rst = false) : step s = .next s := by
  obtain ⟨-, hstay, -⟩ := faultStateStaysUntilReset
  exact (hstay s hs).1 hr

/-- A run without reset from FAULT moves the input levels and nothing else. -/
theorem runPins_of_fault {s : State} {ps : List Pins} (hs : s.stage = 15#4) (hps : ∀ q ∈ ps, q.rst = false) :
    ∃ q, runPins ps s = .next (drive q s) := by
  induction ps generalizing s with
  | nil => exact ⟨s.pins, rfl⟩
  | cons p ps ih =>
    rw [List.forall_mem_cons] at hps
    rw [runPins_cons ps (step_fault_self (s := drive p s) hs hps.1)]
    exact ih (s := drive p s) hs hps.2

/-! ### The front end -/

section
variable {f : Fields} {v : VariantInput} {mode : BitVec 1} {s : State}

/-- The inputs of an accepted submission: the record with `start` high. -/
def submittedPins (rec : Rec40) (v : VariantInput) (mode : BitVec 1) (s : State) : Pins :=
  { s.pins with start := true, recI := rec, variantI := v, modeI := mode }

theorem submit_of_pack_ok {rec : Rec40} (hs : s.stage = 0#4 ∨ s.stage = 9#4) (hp : pack f = .ok rec) :
    submit f v mode s = some (drive (submittedPins rec v mode s) s) := by
  simp only [submit, if_pos hs, hp, submittedPins]

theorem submit_of_pack_error {e : Fault} (hs : s.stage = 0#4 ∨ s.stage = 9#4) (hp : pack f = .error e) :
    submit f v mode s = some (raise .invalidRecord (drive { s.pins with start := false } s)) := by
  simp only [submit, if_pos hs, hp, pack_eq_error hp]

/-- With `start` high IDLE and DONE go on to LOAD (R65, R68). -/
theorem step_wait_start (hs : s.stage = 0#4 ∨ s.stage = 9#4) (hr : s.pins.rst = false)
    (hstart : s.pins.start = true) : step s = .next (setStage 1#4 s) := by
  rcases hs with hs | hs
  · rw [step_of_stage (i := .idle) hr hs, exec, execIdle, if_pos hstart]
  · rw [step_of_stage (i := .done) hr hs, exec, execDone, if_pos hstart]

end

/-! ### What a state in DONE shows -/

theorem VariantConfig.shapeMatches_iff (c : VariantConfig) :
    c.shapeMatches = true ↔ c.rows * c.cols = (if c.trailer then 25 else 24) := beq_iff_eq

theorem encodeRecord_of_shapeMatches {cfg : VariantConfig} (h : cfg.shapeMatches = true) (p : Params) (rec : Rec40)
    (mode : Mode) : ∃ w, encodeRecord p rec cfg mode = .ok w :=
  ⟨_, by rw [encodeRecord_eq, if_pos h]⟩

theorem encodeRecord_of_mismatch {cfg : VariantConfig} (h : ¬cfg.shapeMatches = true) (p : Params) (rec : Rec40)
    (mode : Mode) : encodeRecord p rec cfg mode = .error .shapeMismatch := by
  rw [encodeRecord_eq, if_neg h]

/-- The invariant in DONE says that a call has ended: GRID, which passed there, left the registers as SYMENC did. -/
theorem Inv.callEnded {s : State} (h : Inv s) (h9 : s.stage = 9#4) :
    CallEnded s.r.val s.cfg.val s.mode.val s.err s := by
  have hown : RegInv s := h.regInv (ownRegisters_of_ne (by simp [h9]) (by simp [h9]))
  have ⟨_, _, _, _, _, _, _, hdone, _⟩ := hown
  have hgrid : RegInv (setStage 8#4 s) := by
    refine hown.move (fun k hk => ?_) (by simp) (by simp)
    simpa [afterOp_of_call, h9] using by omega
  have hregs : CallRegs s.r.val s.cfg.val s.mode.val (setStage 8#4 s) :=
    InCall.callRegs (e := s.err) ⟨hgrid, rfl, rfl, rfl, rfl⟩ rfl
  have hshape := hdone h9
  exact ⟨hregs, by rw [h9, if_pos hshape], by rw [if_pos hshape]⟩

/-- A call that has ended in DONE shows the password of its inputs. -/
theorem CallEnded.exists_password {rec : Rec40} {cfg : VariantConfig} {mode : Mode} {e : ErrFlags} {s : State}
    (h : CallEnded rec cfg mode e s) (h9 : s.stage = 9#4) :
    ∃ w, encodeRecord Config.params rec cfg mode = .ok w ∧ passwordOut s = some w := by
  have hpw := h.passwordOut_eq_encode
  obtain ⟨-, hstage, -⟩ := h
  have hshape : cfg.shapeMatches = true := by
    by_contra hno
    simp [h9, hno] at hstage
  obtain ⟨w, hw⟩ := encodeRecord_of_shapeMatches hshape Config.params rec mode
  exact ⟨w, hw, by rw [hpw, hw, Except.toOption]⟩

/-! ### The obligations -/

/-- Settles O34: the whole call by its shape check, which both table entries meet. -/
theorem encodeFailsExactlyOnShapeMismatch : Obligations.EncodeFailsExactlyOnShapeMismatch := by
  refine ⟨fun p rec cfg mode => ?_, fun p q rec v mode => ?_⟩
  · rw [Ne, ← VariantConfig.shapeMatches_iff cfg]
    refine ⟨⟨fun ⟨w, hw⟩ => ?_, fun h => encodeRecord_of_shapeMatches h p rec mode⟩,
      fun h => encodeRecord_of_mismatch h p rec mode⟩
    by_contra hno
    simp [encodeRecord_of_mismatch hno] at hw
  · obtain ⟨htotal, -⟩ := callsDoNotDependOnHistory
    exact htotal p rec (vcfg q v) mode (vcfg_wellFormed q v)

/-- Settles O58: the refused submission is fault entry with `start` low, and FAULT keeps ERR. -/
theorem invalidRecordStopsTheBlockBeforeAnyStage : Obligations.InvalidRecordStopsTheBlockBeforeAnyStage := by
  intro f v mode s e hp hs herr
  have hone : s.err ||| errBit .invalidRecord = 1#2 := by simp [herr, errBit, faultCode]
  refine ⟨_, submit_of_pack_error hs hp, by rw [raise, drive_err, hone, drive], fun ps hps => ?_⟩
  obtain ⟨q, hrun⟩ := runPins_of_fault (raise_stage .invalidRecord _) hps
  exact ⟨_, hrun, hone, rfl⟩

/-- Settles O20: the flag by its bits, and no read outside DONE. -/
theorem faultEntrySetsFlagAndStage : Obligations.FaultEntrySetsFlagAndStage := by
  intro f s
  have hno : (raise f s).stage ≠ 9#4 := by simp
  refine ⟨⟨s.err ||| errBit f, rfl, fun i hi => ?_⟩, rfl, rfl, rfl, passwordOut_not_done hno,
    textOut_not_done hno, gridAt_not_done hno⟩
  rw [BitVec.getLsbD_or, getLsbD_errBit f hi]

/-- Settles O2: reset gives the state of R30, FAULT stays and no operation clears a flag. -/
theorem resetFromAnyStateAndOnlyResetRecovers : Obligations.ResetFromAnyStateAndOnlyResetRecovers := by
  refine ⟨fun s hr => ⟨_, step_of_rst hr, rfl, rfl, applyReset_noValues s⟩, fun s t hr h => ?_⟩
  obtain ⟨i, hi, he⟩ := exec_of_step hr h
  refine ⟨fun h15 => ?_, fun k _ hk => exec_keeps_errFlag he hk⟩
  rw [step_fault_self h15 hr] at h
  cases h
  exact h15

/-- Settles O30: the invariant in DONE makes the state the end of a call, which shows its password. -/
theorem doneShowsTheEncodedPassword : Obligations.DoneShowsTheEncodedPassword := by
  intro s hinv h9
  obtain ⟨rec, cfg, mode, hr, hcfg, hmode, -⟩ := intermediateValuesAreReadableInDone s hinv h9
  obtain ⟨-, -, rfl⟩ := hostReg_eq_some_iff.1 hr
  obtain ⟨-, -, rfl⟩ := hostReg_eq_some_iff.1 hcfg
  obtain ⟨-, -, rfl⟩ := hostReg_eq_some_iff.1 hmode
  obtain ⟨w, hw, hpw⟩ := (hinv.callEnded h9).exists_password h9
  obtain ⟨hsyms, -⟩ := passwordOut_eq_some hpw
  obtain ⟨hlen, -⟩ := symbolsOut_eq_some hsyms
  exact ⟨_, _, _, w, hr, hcfg, hmode, hw, hpw, hlen, by rw [textOut, hpw, Option.map_some]⟩

/-- Settles O59: one step sees `start`, and the eight of the call compute ENCODE of the inputs submitted. -/
theorem submittedFieldsGiveTheirPassword : Obligations.SubmittedFieldsGiveTheirPassword := by
  intro f v mode s rec w hs hr hp hw
  let p := submittedPins rec v mode s
  have hstart : step (drive p (drive p s)) = .next (setStage 1#4 (drive p s)) :=
    step_wait_start (s := drive p s) hs hr rfl
  have hheld : ∀ q ∈ List.replicate 7 p, q.rst = false := fun q hq => by rwa [List.eq_of_mem_replicate hq]
  obtain ⟨hok, -⟩ := callComputesEncodeInEightSteps (setStage 1#4 (drive p s)) p (List.replicate 7 p) rfl hr
    List.length_replicate hheld
  obtain ⟨u, hrun, hstage, herr, hpw, -⟩ := hok w hw
  exact ⟨drive p s, u, submit_of_pack_ok hs hp, (runPins_cons _ hstart).trans hrun, hstage, herr, hpw⟩

/-- Settles O52: every read begins with the test of STAGE. -/
theorem hostReadsNothingOutsideDone : Obligations.HostReadsNothingOutsideDone := by
  intro s h
  exact ⟨lenOut_not_done h, passwordOut_not_done h, textOut_not_done h, hostReg_not_done h _, hostReg_not_done h _,
    hostReg_not_done h _, hostReg_not_done h _, hostReg_not_done h _, hostReg_not_done h _,
    fun i => ⟨symAt_not_done h i, by rw [symOut, symAt_not_done h, Option.map_none]⟩, gridAt_not_done h⟩

end Sys2Proof.Machine
end
